-- ==== Sys2Proof/Word.lean ====
section
/-!
DEFINITION. The word types of the machine: bytes, instruction words, nibbles and 12-bit addresses.
Every value is an unsigned integer of a stated width (00_scope.md R11); bit 0 is the least significant (R10).
-/

namespace Sys2Proof

/-- A byte: a general register, a timer, a memory cell, the immediate `nn`. -/
abbrev Byte := BitVec 8

/-- A 16-bit word: an instruction word, `PC`, `I`, a stack entry. -/
abbrev Word := BitVec 16

/-- A nibble of an instruction word (00_scope.md R10), such as the row count `n`. -/
abbrev Nibble := BitVec 4

/-- The index of a general register `V0` to `VF` (10_state.md R20): the fields `x` and `y`. -/
abbrev RegIx := BitVec 4

/-- The 12-bit immediate address `nnn` (30_encoding.md R91). -/
abbrev Addr12 := BitVec 12

/-- The index of `VF`, the flag register (10_state.md R21). -/
def regF : RegIx := 0xF#4

end Sys2Proof
end

