-- ==== Sys2Proof/Config.lean ====
section
/-!
DEFINITION. What a launch of the machine fixes (00_scope.md R8), and the free values.
The straps, `TICK_PERIOD` and the draws of the host are OPEN in the spec: they are opaque constants with no body,
so that a proof can use no particular value of them. `FONT` and its default stand in Machine/Memory.lean.
-/

namespace Sys2Proof

/-- `STACK_DEPTH` = 16 (00_scope.md R8, 10_state.md R29). -/
abbrev stackDepth : Nat := 16

/-- The highest address of memory, 0xFFF (20_memory.md R60). -/
abbrev topAddr : Nat := 0xFFF

/-- The address the program is loaded at, 0x200 (00_scope.md R7). -/
abbrev programBase : Nat := 0x200

/-- How many bytes of `PROGRAM` fit, 3584 (20_memory.md R65). -/
abbrev programCapacity : Nat := 3584

/-- The four quirk straps, the register `CFG` (10_state.md R39), bit 0 first. -/
structure Straps where
  /-- bit 0: `8xy1`, `8xy2`, `8xy3` write `VF <- 0` after their result -/
  vfResetOnLogic : Bool
  /-- bit 1: `Fx55`, `Fx65` end with `I <- (I + x + 1) mod 65536` -/
  incrementIndexOnStoreLoad : Bool
  /-- bit 2: `8xy6`, `8xyE` shift `Vy` into `Vx` -/
  shiftUsesVy : Bool
  /-- bit 3: `Bnnn` jumps to `nnn + V[x]` -/
  jumpUsesVx : Bool
  deriving DecidableEq, Repr, Inhabited

/-- What the host presents with one step request (00_scope.md R8, 40_step_and_dispatch.md R120). -/
structure StepInput where
  /-- bit `k` is 1 when key code `k` is asserted -/
  keys : BitVec 16
  /-- `clk` cycles the divider has counted since the previous step (R122) -/
  elapsed : Nat
  /-- the random byte of `Cxnn` (42_alu.md R172) -/
  rnd : Byte
  deriving DecidableEq, Repr, Inhabited

/-- `TICK_PERIOD - 1`, a free value. DESIGN CHOICE (log entry 4): `TICK_PERIOD` is OPEN and at least 1. Safe. -/
opaque Config.tickPeriodPred : Nat

/-- `TICK_PERIOD`, a natural of at least 1 and of no other law (00_scope.md R8). -/
def Config.tickPeriod : Nat := Config.tickPeriodPred + 1

/-- The strap inputs as sampled at reset, a free value (log entry 3): 10_state.md R39 gives no default. Safe. -/
opaque Config.straps : Straps

/-- The n-th draw of the host: `keys`, `elapsed` and `rnd` of a step request that nothing in the state fixes.
A free value (log entry 2): the three inputs have no law (00_scope.md R8, 40_step_and_dispatch.md R122,
42_alu.md R172). Safe. -/
opaque Config.freeInput : Nat → StepInput

end Sys2Proof
end

