-- ==== Sys2Proof/Machine/Flags.lean ====
section
/-!
DEFINITION. The 8-bit results and every value that an instruction writes to `VF` as a flag (10_state.md R23, 42_alu.md R160):
exact sums and comparisons on naturals, narrowed at the end.
-/

namespace Sys2Proof.Machine

/-- A flag as a byte, 0 or 1. -/
def flagByte (b : Bool) : Byte := if b then 1#8 else 0#8

/-- `(p + q) mod 256`. -/
def sumByte (p q : Byte) : Byte := BitVec.ofNat 8 (p.toNat + q.toNat)

/-- Carry: 1 when the exact sum exceeds 255 (42_alu.md R167). -/
def carryFlag (p q : Byte) : Byte := flagByte (decide (255 < p.toNat + q.toNat))

/-- `(p - q) mod 256`. -/
def diffByte (p q : Byte) : Byte := BitVec.ofInt 8 ((p.toNat : Int) - (q.toNat : Int))

/-- Not-borrow: 1 when the minuend `p` is at least the subtrahend `q` (42_alu.md R168, R170). -/
def noBorrowFlag (p q : Byte) : Byte := flagByte (decide (q.toNat ≤ p.toNat))

/-- `b >> 1`, bit 7 becomes 0 (42_alu.md R169). -/
def shiftRight (b : Byte) : Byte := b >>> 1

/-- The bit shifted out at the bottom (42_alu.md R169). -/
def lowBitFlag (b : Byte) : Byte := flagByte (b.getLsbD 0)

/-- `(b << 1) mod 256`, bit 0 becomes 0 (42_alu.md R171). -/
def shiftLeft (b : Byte) : Byte := b <<< 1

/-- The bit shifted out at the top (42_alu.md R171). -/
def highBitFlag (b : Byte) : Byte := flagByte (b.getLsbD 7)

end Sys2Proof.Machine
end

