-- ==== Sys2Proof/Syntax.lean ====
section
/-!
DEFINITION. The instruction set: one constructor per row of spec/opcode_table.json (30_encoding.md R95), in its order.
The operands are the fields of 30_encoding.md R91 at their own widths, so every value of a field is an operand.
-/

namespace Sys2Proof

/-- The 34 instructions (30_encoding.md R95). -/
inductive Instr where
  /-- `00E0` CLS (R181) -/
  | cls
  /-- `00EE` RET (R141) -/
  | ret
  /-- `1nnn` JP nnn (R142) -/
  | jp (nnn : Addr12)
  /-- `2nnn` CALL nnn (R143) -/
  | call (nnn : Addr12)
  /-- `3xnn` SE Vx, nn (R144) -/
  | seImm (x : RegIx) (nn : Byte)
  /-- `4xnn` SNE Vx, nn (R145) -/
  | sneImm (x : RegIx) (nn : Byte)
  /-- `5xy0` SE Vx, Vy (R146) -/
  | seReg (x y : RegIx)
  /-- `6xnn` LD Vx, nn (R161) -/
  | ldImm (x : RegIx) (nn : Byte)
  /-- `7xnn` ADD Vx, nn (R162) -/
  | addImm (x : RegIx) (nn : Byte)
  /-- `8xy0` LD Vx, Vy (R163) -/
  | ldReg (x y : RegIx)
  /-- `8xy1` OR Vx, Vy (R164) -/
  | orReg (x y : RegIx)
  /-- `8xy2` AND Vx, Vy (R165) -/
  | andReg (x y : RegIx)
  /-- `8xy3` XOR Vx, Vy (R166) -/
  | xorReg (x y : RegIx)
  /-- `8xy4` ADD Vx, Vy (R167) -/
  | addReg (x y : RegIx)
  /-- `8xy5` SUB Vx, Vy (R168) -/
  | subReg (x y : RegIx)
  /-- `8xy6` SHR Vx, Vy (R169) -/
  | shr (x y : RegIx)
  /-- `8xy7` SUBN Vx, Vy (R170) -/
  | subnReg (x y : RegIx)
  /-- `8xyE` SHL Vx, Vy (R171) -/
  | shl (x y : RegIx)
  /-- `9xy0` SNE Vx, Vy (R147) -/
  | sneReg (x y : RegIx)
  /-- `Annn` LD I, nnn (R200) -/
  | ldI (nnn : Addr12)
  /-- `Bnnn` JP V0, nnn (R148) -/
  | jpV0 (nnn : Addr12)
  /-- `Cxnn` RND Vx, nn (R172) -/
  | rnd (x : RegIx) (nn : Byte)
  /-- `Dxyn` DRW Vx, Vy, n (R182) -/
  | drw (x y : RegIx) (n : Nibble)
  /-- `Ex9E` SKP Vx (R190) -/
  | skp (x : RegIx)
  /-- `ExA1` SKNP Vx (R191) -/
  | sknp (x : RegIx)
  /-- `Fx07` LD Vx, DT (R192) -/
  | ldVxDT (x : RegIx)
  /-- `Fx0A` LD Vx, K (R193) -/
  | ldVxK (x : RegIx)
  /-- `Fx15` LD DT, Vx (R194) -/
  | ldDTVx (x : RegIx)
  /-- `Fx18` LD ST, Vx (R195) -/
  | ldSTVx (x : RegIx)
  /-- `Fx1E` ADD I, Vx (R201) -/
  | addI (x : RegIx)
  /-- `Fx29` LD F, Vx (R202) -/
  | ldF (x : RegIx)
  /-- `Fx33` LD B, Vx (R203) -/
  | ldB (x : RegIx)
  /-- `Fx55` LD [I], Vx (R204) -/
  | storeRegs (x : RegIx)
  /-- `Fx65` LD Vx, [I] (R205) -/
  | loadRegs (x : RegIx)
  deriving DecidableEq, Repr

end Sys2Proof
end

