-- ==== Sys2Proof/WellFormed.lean ====
section
/-!
DEFINITION. Which instructions and which words are well formed.
The opcode table of 30_encoding.md R95 stands here as masks and matches, apart from the decision tree of Decode.lean,
so that each can be checked against the other.
-/

namespace Sys2Proof

/-- One row of the opcode table: a word spells the row when `w AND mask = value` (30_encoding.md R95). -/
structure OpcodeRow where
  /-- the row's mnemonic in spec/opcode_table.json -/
  mnemonic : String
  mask : Word
  value : Word
  deriving DecidableEq, Repr

/-- Rows 1 to 12 of 30_encoding.md R95. -/
def opcodeRowsLow : List OpcodeRow :=
  [⟨"CLS", 0xFFFF#16, 0x00E0#16⟩, ⟨"RET", 0xFFFF#16, 0x00EE#16⟩, ⟨"JP_nnn", 0xF000#16, 0x1000#16⟩,
   ⟨"CALL_nnn", 0xF000#16, 0x2000#16⟩, ⟨"SE_Vx__nn", 0xF000#16, 0x3000#16⟩, ⟨"SNE_Vx__nn", 0xF000#16, 0x4000#16⟩,
   ⟨"SE_Vx__Vy", 0xF00F#16, 0x5000#16⟩, ⟨"LD_Vx__nn", 0xF000#16, 0x6000#16⟩, ⟨"ADD_Vx__nn", 0xF000#16, 0x7000#16⟩,
   ⟨"LD_Vx__Vy", 0xF00F#16, 0x8000#16⟩, ⟨"OR_Vx__Vy", 0xF00F#16, 0x8001#16⟩, ⟨"AND_Vx__Vy", 0xF00F#16, 0x8002#16⟩]

/-- Rows 13 to 23 of 30_encoding.md R95. -/
def opcodeRowsMid : List OpcodeRow :=
  [⟨"XOR_Vx__Vy", 0xF00F#16, 0x8003#16⟩, ⟨"ADD_Vx__Vy", 0xF00F#16, 0x8004#16⟩, ⟨"SUB_Vx__Vy", 0xF00F#16, 0x8005#16⟩,
   ⟨"SHR_Vx__Vy", 0xF00F#16, 0x8006#16⟩, ⟨"SUBN_Vx__Vy", 0xF00F#16, 0x8007#16⟩, ⟨"SHL_Vx__Vy", 0xF00F#16, 0x800E#16⟩,
   ⟨"SNE_Vx__Vy", 0xF00F#16, 0x9000#16⟩, ⟨"LD_I__nnn", 0xF000#16, 0xA000#16⟩, ⟨"JP_V0__nnn", 0xF000#16, 0xB000#16⟩,
   ⟨"RND_Vx__nn", 0xF000#16, 0xC000#16⟩, ⟨"DRW_Vx__Vy__n", 0xF000#16, 0xD000#16⟩]

/-- Rows 24 to 34 of 30_encoding.md R95. -/
def opcodeRowsHigh : List OpcodeRow :=
  [⟨"SKP_Vx", 0xF0FF#16, 0xE09E#16⟩, ⟨"SKNP_Vx", 0xF0FF#16, 0xE0A1#16⟩, ⟨"LD_Vx__DT", 0xF0FF#16, 0xF007#16⟩,
   ⟨"LD_Vx__K", 0xF0FF#16, 0xF00A#16⟩, ⟨"LD_DT__Vx", 0xF0FF#16, 0xF015#16⟩, ⟨"LD_ST__Vx", 0xF0FF#16, 0xF018#16⟩,
   ⟨"ADD_I__Vx", 0xF0FF#16, 0xF01E#16⟩, ⟨"LD_F__Vx", 0xF0FF#16, 0xF029#16⟩, ⟨"LD_B__Vx", 0xF0FF#16, 0xF033#16⟩,
   ⟨"LD__I___Vx", 0xF0FF#16, 0xF055#16⟩, ⟨"LD_Vx___I", 0xF0FF#16, 0xF065#16⟩]

/-- The opcode table, 34 rows in the spec's order (30_encoding.md R95). -/
def opcodeTable : List OpcodeRow := opcodeRowsLow ++ opcodeRowsMid ++ opcodeRowsHigh

/-- `w` spells `row`: `(w AND mask) = match` (30_encoding.md R95). -/
def OpcodeRow.spells (row : OpcodeRow) (w : Word) : Bool := (w &&& row.mask) == row.value

/-- A word is legal exactly when it matches a row (30_encoding.md R97, R99); every other word raises `DecodeError`. -/
def legalWord (w : Word) : Bool := opcodeTable.any (fun row => row.spells w)

/-- The mnemonic, in spec/opcode_table.json, of the row a constructor stands for. -/
def Instr.mnemonic : Instr → String
  | .cls => "CLS"
  | .ret => "RET"
  | .jp _ => "JP_nnn"
  | .call _ => "CALL_nnn"
  | .seImm _ _ => "SE_Vx__nn"
  | .sneImm _ _ => "SNE_Vx__nn"
  | .seReg _ _ => "SE_Vx__Vy"
  | .ldImm _ _ => "LD_Vx__nn"
  | .addImm _ _ => "ADD_Vx__nn"
  | .ldReg _ _ => "LD_Vx__Vy"
  | .orReg _ _ => "OR_Vx__Vy"
  | .andReg _ _ => "AND_Vx__Vy"
  | .xorReg _ _ => "XOR_Vx__Vy"
  | .addReg _ _ => "ADD_Vx__Vy"
  | .subReg _ _ => "SUB_Vx__Vy"
  | .shr _ _ => "SHR_Vx__Vy"
  | .subnReg _ _ => "SUBN_Vx__Vy"
  | .shl _ _ => "SHL_Vx__Vy"
  | .sneReg _ _ => "SNE_Vx__Vy"
  | .ldI _ => "LD_I__nnn"
  | .jpV0 _ => "JP_V0__nnn"
  | .rnd _ _ => "RND_Vx__nn"
  | .drw _ _ _ => "DRW_Vx__Vy__n"
  | .skp _ => "SKP_Vx"
  | .sknp _ => "SKNP_Vx"
  | .ldVxDT _ => "LD_Vx__DT"
  | .ldVxK _ => "LD_Vx__K"
  | .ldDTVx _ => "LD_DT__Vx"
  | .ldSTVx _ => "LD_ST__Vx"
  | .addI _ => "ADD_I__Vx"
  | .ldF _ => "LD_F__Vx"
  | .ldB _ => "LD_B__Vx"
  | .storeRegs _ => "LD__I___Vx"
  | .loadRegs _ => "LD_Vx___I"

/-- An instruction is well formed when it stands for a row of the opcode table. The widths of its operands are in their
types, and the spec gives no form a further condition: every value of every field is legal (30_encoding.md R93, R100),
so this check refuses no `Instr`. What can be ill formed is a word: `legalWord`. -/
def Instr.wellFormed (i : Instr) : Bool := opcodeTable.any (fun row => row.mnemonic == i.mnemonic)

end Sys2Proof
end

