-- ==== Sys2Proof/Decode.lean ====
section
/-!
DEFINITION. The decoder, total on any bytes and rejecting by name, and after it the encoder.
Fields: 30_encoding.md R91. Decision tree: 30_encoding.md R94. Formats: 30_encoding.md R92. Byte order: 20_memory.md R67.
-/

namespace Sys2Proof

/-- `op = w[15:12]` (30_encoding.md R91). -/
def fieldOp (w : Word) : Nibble := w.extractLsb' 12 4

/-- `x = w[11:8]` (30_encoding.md R91). -/
def fieldX (w : Word) : RegIx := w.extractLsb' 8 4

/-- `y = w[7:4]` (30_encoding.md R91). -/
def fieldY (w : Word) : RegIx := w.extractLsb' 4 4

/-- `n = w[3:0]` (30_encoding.md R91). -/
def fieldN (w : Word) : Nibble := w.extractLsb' 0 4

/-- `nn = w[7:0]` (30_encoding.md R91). -/
def fieldNN (w : Word) : Byte := w.extractLsb' 0 8

/-- `nnn = w[11:0]` (30_encoding.md R91). -/
def fieldNNN (w : Word) : Addr12 := w.extractLsb' 0 12

/-- Why bytes are no instruction: the families of illegal words of 30_encoding.md R97, and too few bytes. -/
inductive Illegal where
  /-- `op = 0`, and the word is neither 0x00E0 nor 0x00EE -/
  | family0
  /-- `op = 5` and `n` is not 0 -/
  | family5
  /-- `op = 8` and `n` is one of 8 to 0xD, 0xF -/
  | family8
  /-- `op = 9` and `n` is not 0 -/
  | family9
  /-- `op = 0xE` and `nn` is neither 0x9E nor 0xA1 -/
  | familyE
  /-- `op = 0xF` and `nn` is none of the nine listed values -/
  | familyF
  /-- fewer than two bytes: no word -/
  | truncated
  deriving DecidableEq, Repr

/-- Family `op = 0` (30_encoding.md R94, R96). -/
def decode0 (w : Word) : Except Illegal Instr :=
  if w = 0x00E0#16 then .ok .cls
  else if w = 0x00EE#16 then .ok .ret
  else .error .family0

/-- Family `op = 8` (30_encoding.md R94). -/
def decode8 (w : Word) : Except Illegal Instr :=
  match (fieldN w).toNat with
  | 0 => .ok (.ldReg (fieldX w) (fieldY w))
  | 1 => .ok (.orReg (fieldX w) (fieldY w))
  | 2 => .ok (.andReg (fieldX w) (fieldY w))
  | 3 => .ok (.xorReg (fieldX w) (fieldY w))
  | 4 => .ok (.addReg (fieldX w) (fieldY w))
  | 5 => .ok (.subReg (fieldX w) (fieldY w))
  | 6 => .ok (.shr (fieldX w) (fieldY w))
  | 7 => .ok (.subnReg (fieldX w) (fieldY w))
  | 0xE => .ok (.shl (fieldX w) (fieldY w))
  | _ => .error .family8

/-- Family `op = 0xE` (30_encoding.md R94). -/
def decodeE (w : Word) : Except Illegal Instr :=
  if fieldNN w = 0x9E#8 then .ok (.skp (fieldX w))
  else if fieldNN w = 0xA1#8 then .ok (.sknp (fieldX w))
  else .error .familyE

/-- Family `op = 0xF` (30_encoding.md R94). -/
def decodeF (w : Word) : Except Illegal Instr :=
  if fieldNN w = 0x07#8 then .ok (.ldVxDT (fieldX w))
  else if fieldNN w = 0x0A#8 then .ok (.ldVxK (fieldX w))
  else if fieldNN w = 0x15#8 then .ok (.ldDTVx (fieldX w))
  else if fieldNN w = 0x18#8 then .ok (.ldSTVx (fieldX w))
  else if fieldNN w = 0x1E#8 then .ok (.addI (fieldX w))
  else if fieldNN w = 0x29#8 then .ok (.ldF (fieldX w))
  else if fieldNN w = 0x33#8 then .ok (.ldB (fieldX w))
  else if fieldNN w = 0x55#8 then .ok (.storeRegs (fieldX w))
  else if fieldNN w = 0x65#8 then .ok (.loadRegs (fieldX w))
  else .error .familyF

/-- The decision tree, complete (30_encoding.md R94): a function of the word alone. The last arm is `op = 0xF`. -/
def decode (w : Word) : Except Illegal Instr :=
  match (fieldOp w).toNat with
  | 0x0 => decode0 w
  | 0x1 => .ok (.jp (fieldNNN w))
  | 0x2 => .ok (.call (fieldNNN w))
  | 0x3 => .ok (.seImm (fieldX w) (fieldNN w))
  | 0x4 => .ok (.sneImm (fieldX w) (fieldNN w))
  | 0x5 => if fieldN w = 0#4 then .ok (.seReg (fieldX w) (fieldY w)) else .error .family5
  | 0x6 => .ok (.ldImm (fieldX w) (fieldNN w))
  | 0x7 => .ok (.addImm (fieldX w) (fieldNN w))
  | 0x8 => decode8 w
  | 0x9 => if fieldN w = 0#4 then .ok (.sneReg (fieldX w) (fieldY w)) else .error .family9
  | 0xA => .ok (.ldI (fieldNNN w))
  | 0xB => .ok (.jpV0 (fieldNNN w))
  | 0xC => .ok (.rnd (fieldX w) (fieldNN w))
  | 0xD => .ok (.drw (fieldX w) (fieldY w) (fieldN w))
  | 0xE => decodeE w
  | _ => decodeF w

/-- The word of two bytes, the byte from the lower address high (20_memory.md R67). -/
def wordOfBytes (hi lo : Byte) : Word := hi ++ lo

/-- The byte of a word that lies at the lower address, `w[15:8]` (20_memory.md R67). -/
def highByte (w : Word) : Byte := w.extractLsb' 8 8

/-- The byte of a word that lies at the next address, `w[7:0]` (20_memory.md R67). -/
def lowByte (w : Word) : Byte := w.extractLsb' 0 8

/-- One instruction off the front of a list of bytes, with the bytes after it (30_encoding.md R90). -/
def decodeBytes : List Byte → Except Illegal (Instr × List Byte)
  | hi :: lo :: rest =>
    match decode (wordOfBytes hi lo) with
    | .ok i => .ok (i, rest)
    | .error e => .error e
  | [_] => .error .truncated
  | [] => .error .truncated

/-- Format `NNN` (30_encoding.md R92). -/
def wordNNN (op : Nibble) (nnn : Addr12) : Word := op ++ nnn

/-- Format `XNN` (30_encoding.md R92). -/
def wordXNN (op : Nibble) (x : RegIx) (nn : Byte) : Word := op ++ x ++ nn

/-- Formats `XY` and `XYN` (30_encoding.md R92): the last nibble is the sub-opcode or `n`. -/
def wordXYN (op : Nibble) (x y : RegIx) (n : Nibble) : Word := op ++ x ++ y ++ n

/-- The word of an instruction (30_encoding.md R92, R95). Format `X` is `XNN` with the sub-opcode for `nn`. -/
def encode : Instr → Word
  | .cls => 0x00E0#16
  | .ret => 0x00EE#16
  | .jp nnn => wordNNN 0x1#4 nnn
  | .call nnn => wordNNN 0x2#4 nnn
  | .seImm x nn => wordXNN 0x3#4 x nn
  | .sneImm x nn => wordXNN 0x4#4 x nn
  | .seReg x y => wordXYN 0x5#4 x y 0x0#4
  | .ldImm x nn => wordXNN 0x6#4 x nn
  | .addImm x nn => wordXNN 0x7#4 x nn
  | .ldReg x y => wordXYN 0x8#4 x y 0x0#4
  | .orReg x y => wordXYN 0x8#4 x y 0x1#4
  | .andReg x y => wordXYN 0x8#4 x y 0x2#4
  | .xorReg x y => wordXYN 0x8#4 x y 0x3#4
  | .addReg x y => wordXYN 0x8#4 x y 0x4#4
  | .subReg x y => wordXYN 0x8#4 x y 0x5#4
  | .shr x y => wordXYN 0x8#4 x y 0x6#4
  | .subnReg x y => wordXYN 0x8#4 x y 0x7#4
  | .shl x y => wordXYN 0x8#4 x y 0xE#4
  | .sneReg x y => wordXYN 0x9#4 x y 0x0#4
  | .ldI nnn => wordNNN 0xA#4 nnn
  | .jpV0 nnn => wordNNN 0xB#4 nnn
  | .rnd x nn => wordXNN 0xC#4 x nn
  | .drw x y n => wordXYN 0xD#4 x y n
  | .skp x => wordXNN 0xE#4 x 0x9E#8
  | .sknp x => wordXNN 0xE#4 x 0xA1#8
  | .ldVxDT x => wordXNN 0xF#4 x 0x07#8
  | .ldVxK x => wordXNN 0xF#4 x 0x0A#8
  | .ldDTVx x => wordXNN 0xF#4 x 0x15#8
  | .ldSTVx x => wordXNN 0xF#4 x 0x18#8
  | .addI x => wordXNN 0xF#4 x 0x1E#8
  | .ldF x => wordXNN 0xF#4 x 0x29#8
  | .ldB x => wordXNN 0xF#4 x 0x33#8
  | .storeRegs x => wordXNN 0xF#4 x 0x55#8
  | .loadRegs x => wordXNN 0xF#4 x 0x65#8

/-- The bytes of an instruction as memory holds them, high byte first (20_memory.md R67). -/
def encodeBytes (i : Instr) : List Byte := [highByte (encode i), lowByte (encode i)]

/-- The two bytes, as memory holds them, of the word the opcode table numbers `w` when it gives it `nbits` bits:
every bit from `nbits` up is 0. -/
def tableBytes (nbits w : Nat) : List Byte :=
  [highByte (BitVec.ofNat 16 (w % 2 ^ nbits)), lowByte (BitVec.ofNat 16 (w % 2 ^ nbits))]

/-- What the decoder reads from an instruction whose bits are `w` in the opcode table's numbering. -/
def decodeTableWord (nbits w : Nat) : Option Instr :=
  match decodeBytes (tableBytes nbits w) with
  | .ok (i, _) => some i
  | .error _ => none

end Sys2Proof
end

