-- ==== Sys2Proof/Machine/Frame.lean ====
section
/-!
DEFINITION. The display buffer `FB` (10_state.md R34): 32 rows of 64 one-bit pixels, and the XOR sprite draw on it
(43_display.md R182), without the registers and the memory that the instruction reads.
-/

namespace Sys2Proof.Machine

/-- `FB`: bit `c` of row `r` is the pixel `FB[r][c]`, 1 = on (10_state.md R34). -/
abbrev Frame := Vector (BitVec 64) 32

/-- All 2048 pixels off. -/
def Frame.blank : Frame := Vector.replicate 32 0#64

/-- The row `r`, off beyond the screen. -/
def Frame.row (f : Frame) (r : Nat) : BitVec 64 := f[r]?.getD 0#64

/-- `FB[r][c]` (10_state.md R34). -/
def Frame.pixel (f : Frame) (r c : Nat) : Bool := (f.row r).getLsbD c

/-- `FB[r][c] <- FB[r][c] XOR 1`. -/
def Frame.toggle (f : Frame) (r c : Nat) : Frame := f.setIfInBounds r (f.row r ^^^ (1#64 <<< c))

/-- A draw under way: the display buffer and `coll` (43_display.md R182). -/
abbrev Drawing := Frame × Bool

/-- One sprite bit, `c` from 0 to 7 with 0 the leftmost, at row `row` and column `x0 + c` (43_display.md R182):
clipped at column 64, where the spec's loop breaks, every later column being clipped too. -/
def drawBit (b : Byte) (row x0 : Nat) (d : Drawing) (c : Nat) : Drawing :=
  if 64 ≤ x0 + c then d
  else if b.getLsbD (7 - c) then (d.1.toggle row (x0 + c), d.2 || d.1.pixel row (x0 + c))
  else d

/-- One sprite row: the byte `b` at row `row`, clipped at row 32 (43_display.md R182). -/
def drawRow (x0 row : Nat) (b : Byte) (d : Drawing) : Drawing :=
  if 32 ≤ row then d else (List.range 8).foldl (drawBit b row x0) d

/-- A sprite: its bytes from the top row down, the first at row `y0` (43_display.md R182). -/
def drawRows (x0 y0 : Nat) (bytes : List Byte) (d : Drawing) : Drawing :=
  match bytes with
  | [] => d
  | b :: r => drawRows x0 (y0 + 1) r (drawRow x0 y0 b d)

end Sys2Proof.Machine
end

