-- ==== Sys2Proof/Machine/Memory.lean ====
section
/-!
DEFINITION. The 4096-byte memory (20_memory.md R60) as a list of cells in one canonical form, its reset contents
(R62 to R65) and its byte accesses (R66). Addresses are exact naturals; that an access lies in 0x000 to 0xFFF is checked
before it, for the whole footprint at once (R68), in Machine/Ops.lean.
-/

namespace Sys2Proof.Machine

/-- Memory: the cells whose byte is not the one an unlisted address reads as, by strictly rising address. -/
abbrev Memory := List Host.Cell

/-- Glyphs 0 to 7 of `FONT` (20_memory.md R63). -/
def glyphsLow : List Byte :=
  [0xF0#8, 0x90#8, 0x90#8, 0x90#8, 0xF0#8] ++ [0x20#8, 0x60#8, 0x20#8, 0x20#8, 0x70#8] ++
  [0xF0#8, 0x10#8, 0xF0#8, 0x80#8, 0xF0#8] ++ [0xF0#8, 0x10#8, 0xF0#8, 0x10#8, 0xF0#8] ++
  [0x90#8, 0x90#8, 0xF0#8, 0x10#8, 0x10#8] ++ [0xF0#8, 0x80#8, 0xF0#8, 0x10#8, 0xF0#8] ++
  [0xF0#8, 0x80#8, 0xF0#8, 0x90#8, 0xF0#8] ++ [0xF0#8, 0x10#8, 0x20#8, 0x40#8, 0x40#8]

/-- Glyphs 8 to F of `FONT` (20_memory.md R63). -/
def glyphsHigh : List Byte :=
  [0xF0#8, 0x90#8, 0xF0#8, 0x90#8, 0xF0#8] ++ [0xF0#8, 0x90#8, 0xF0#8, 0x10#8, 0xF0#8] ++
  [0xF0#8, 0x90#8, 0xF0#8, 0x90#8, 0x90#8] ++ [0xE0#8, 0x90#8, 0xE0#8, 0x90#8, 0xE0#8] ++
  [0xF0#8, 0x80#8, 0x80#8, 0x80#8, 0xF0#8] ++ [0xE0#8, 0x90#8, 0x90#8, 0x90#8, 0xE0#8] ++
  [0xF0#8, 0x80#8, 0xF0#8, 0x80#8, 0xF0#8] ++ [0xF0#8, 0x80#8, 0xF0#8, 0x80#8, 0x80#8]

/-- The default of the parameter `FONT`, 80 bytes, glyph `d` at `5 * d` (20_memory.md R63).
PRESUMED by the spec from general knowledge (log entry 5). Unsafe. -/
def glyphFont : List Byte := glyphsLow ++ glyphsHigh

/-- What an address that memory does not list reads as: the reset image of 20_memory.md R64 with the default `FONT` and
an empty `PROGRAM`, so the glyph table below 0x050 and 0x00 above it (log entries 5, 6, 8). -/
def resetByte (a : Nat) : Byte := glyphFont.getD a 0#8

/-- The byte at `a` (20_memory.md R66). -/
def Memory.read (m : Memory) (a : Nat) : Byte :=
  match m with
  | [] => resetByte a
  | c :: r => if c.1 = a then c.2 else Memory.read r a

/-- `m` with no cell at `a`, so that `a` reads as at reset. -/
def Memory.unlist (m : Memory) (a : Nat) : Memory := m.filter (fun c => c.1 != a)

/-- `m` with the cell `(a, b)` before the first cell of a greater address. -/
def Memory.enlist (m : Memory) (a : Nat) (b : Byte) : Memory :=
  match m with
  | [] => [(a, b)]
  | c :: r => if a < c.1 then (a, b) :: c :: r else c :: Memory.enlist r a b

/-- `mem[a] <- b` (20_memory.md R66). A byte equal to what an unlisted address reads as is not listed. -/
def Memory.write (m : Memory) (a : Nat) (b : Byte) : Memory :=
  if b = resetByte a then m.unlist a else (m.unlist a).enlist a b

/-- `mem[a] <- b0; mem[a + 1] <- b1; ...`, lowest address first. -/
def Memory.writeBytes (m : Memory) (a : Nat) : List Byte → Memory
  | [] => m
  | b :: r => Memory.writeBytes (m.write a b) (a + 1) r

/-- The canonical form: strictly rising addresses, all in 0x000 to 0xFFF, and no cell that reads as at reset. -/
abbrev Memory.wf (m : Memory) : Prop :=
  (m.map Prod.fst).Pairwise (· < ·) ∧ ∀ c ∈ m, c.1 ≤ topAddr ∧ c.2 ≠ resetByte c.1

/-- The memory after reset as a function of `FONT` and `PROGRAM` (20_memory.md R64): `FONT` is 80 bytes, and a `PROGRAM`
longer than 3584 bytes is cut (R65). -/
def Memory.image (font program : List Byte) : Memory :=
  Memory.writeBytes (Memory.writeBytes [] 0 (font.take 80)) programBase (program.take programCapacity)

end Sys2Proof.Machine
end

