-- ==== Sys2Proof/Machine/State.lean ====
section
/-!
DEFINITION. The machine's state as plain data, holding every piece of state the spec gives it (10_state.md R20 to R44),
its state after reset (R44), and the ways a step can stop.
-/

namespace Sys2Proof.Machine

/-- The run mode (10_state.md R37). -/
inductive Mode where
  /-- executing, or waiting for a key -/
  | run
  /-- after a fault, until `rst` -/
  | halt
  deriving DecidableEq, Repr

/-- The four faults of the machine (60_exceptions.md R210). The spec describes fault entry (R217), so the model TAKES
each of them: a next state in `HALT` with the fault report written (log entry 1). No step answers `Outcome.fault`. -/
inductive Fault where
  /-- code 1, raised by dispatch on a word that is no instruction (R211). Safe: the spec's own behaviour. -/
  | decodeError
  /-- code 2, raised by `00EE` when the stack is empty (R212). Safe: the spec's own behaviour. -/
  | stackUnderflow
  /-- code 3, raised by the fetch, `Dxyn`, `Fx33`, `Fx55`, `Fx65` on an address above 0xFFF (R213, R214).
  Safe: the spec's own behaviour. -/
  | memRange
  /-- code 4, raised by `2nnn` when the stack is full (R215). Safe: the spec's own behaviour. -/
  | stackOverflow
  deriving DecidableEq, Repr

/-- Why a step would have no meaning. -/
inductive Refusal where
  /-- raised by an arm of exec for an instruction without a meaning; no arm raises it. Safe: the machine stops. -/
  | notModelled (mnemonic : String)
  deriving DecidableEq, Repr

/-- The state. Fields down to `displayChanged` are the spec's; the last four are the model's own (log entries 2, 10). -/
structure State where
  /-- `V0` to `VF` (10_state.md R20) -/
  v : Vector Byte 16
  /-- `I` (R27) -/
  i : Word
  /-- `PC` (R24) -/
  pc : Word
  /-- `SP`, how many stack entries are in use, 0 to 16 (R29) -/
  sp : Fin (stackDepth + 1)
  /-- `stack[0]` to `stack[15]`, outside memory (R29) -/
  stack : Vector Word stackDepth
  /-- `DT` (R31) -/
  dt : Byte
  /-- `ST` (R32) -/
  st : Byte
  /-- `FB` (R34) -/
  fb : Frame
  /-- `wait_valid` (R35) -/
  waitValid : Bool
  /-- `wait_reg`, meaningless when `wait_valid` is 0 (R35) -/
  waitReg : RegIx
  /-- `div`, `clk` cycles since the last tick (R36) -/
  div : Nat
  /-- `mode` (R37) -/
  mode : Mode
  /-- `fault_code` (R38) -/
  faultCode : BitVec 3
  /-- `fault_addr` (R38) -/
  faultAddr : Word
  /-- `fault_word` (R38) -/
  faultWord : Word
  /-- `fault_info` (R38) -/
  faultInfo : Word
  /-- `CFG`, the straps as sampled at reset (R39) -/
  cfg : Straps
  /-- the 4096 bytes of memory (20_memory.md R60) -/
  mem : Memory
  /-- `display_changed`, the result of the last step (R40) -/
  displayChanged : Bool
  /-- the model's: the sample of `keys` that serves the step under way (R128) -/
  keys : BitVec 16
  /-- the model's: the sample of `rnd` that serves the step under way (R128) -/
  rnd : Byte
  /-- the model's: the host's next step requests where a run fixes them, oldest first (00_scope.md R6) -/
  hostInputs : List StepInput
  /-- the model's: the index of the next free draw (`Config.freeInput`) -/
  drawCount : Nat
  deriving DecidableEq, Repr

/-- The machine right after reset (10_state.md R44): the straps are the free `Config.straps` (log entry 3), the memory is
the reset image with the default `FONT` and an empty `PROGRAM`, so nothing is listed (log entries 5, 6). -/
def State.reset : State where
  v := Vector.replicate 16 0#8
  i := 0#16
  pc := 0x0200#16
  sp := 0
  stack := Vector.replicate stackDepth 0#16
  dt := 0#8
  st := 0#8
  fb := Frame.blank
  waitValid := false
  waitReg := 0#4
  div := 0
  mode := .run
  faultCode := 0#3
  faultAddr := 0#16
  faultWord := 0#16
  faultInfo := 0#16
  cfg := Config.straps
  mem := []
  displayChanged := false
  keys := 0#16
  rnd := 0#8
  hostInputs := []
  drawCount := 0

end Sys2Proof.Machine
end

