-- ==== Sys2Proof/Machine/Ops.lean ====
section
/-!
DEFINITION. The named operations over registers, stack, memory, latch and timers that every meaning is written with, and
taking a fault, the machine's one exception entry (60_exceptions.md R217). There is no return from a fault (R220):
`State.rst` is the only way out of `HALT`.
-/

namespace Sys2Proof.Machine

/-- What a step answers. -/
abbrev Out := Host.Outcome State Fault Refusal

/-- `V[r]` (00_scope.md R12). -/
def State.readV (s : State) (r : RegIx) : Byte := s.v[r.toNat]'r.isLt

/-- `V[r] <- b`. -/
def State.writeV (s : State) (r : RegIx) (b : Byte) : State := { s with v := s.v.set r.toNat b r.isLt }

/-- `PC <- a`. -/
def State.setPc (s : State) (a : Word) : State := { s with pc := a }

/-- `I <- a`. -/
def State.setI (s : State) (a : Word) : State := { s with i := a }

/-- `DT <- b`. -/
def State.setDT (s : State) (b : Byte) : State := { s with dt := b }

/-- `ST <- b`. -/
def State.setST (s : State) (b : Byte) : State := { s with st := b }

/-- The memory replaced. -/
def State.setMem (s : State) (m : Memory) : State := { s with mem := m }

/-- `FB` replaced and `display_changed <- 1` (43_display.md R180). -/
def State.setFrame (s : State) (f : Frame) : State := { s with fb := f, displayChanged := true }

/-- `wait_valid <- 1; wait_reg <- x` (10_state.md R35). -/
def State.setWait (s : State) (x : RegIx) : State := { s with waitValid := true, waitReg := x }

/-- `wait_valid <- 0` (10_state.md R35). -/
def State.clearWait (s : State) : State := { s with waitValid := false }

/-- `V[x] <- result`, then `V[0xF] <- flag`: the flag is written last and wins (10_state.md R23, 42_alu.md R160). -/
def State.writeResultFlag (s : State) (x : RegIx) (result flag : Byte) : State :=
  (s.writeV x result).writeV regF flag

/-- `if c then PC <- PC + 2` (41_control_flow.md R140). -/
def State.skipIf (s : State) (c : Bool) : State := { s with pc := if c then s.pc + 2#16 else s.pc }

/-- The address the instruction under way was fetched from: `PC` is `a + 2` while it executes (10_state.md R24). -/
def State.instrAddr (s : State) : Word := s.pc - 2#16

/-- `fault_code` of a fault (60_exceptions.md R210). -/
def Fault.code : Fault → BitVec 3
  | .decodeError => 1#3
  | .stackUnderflow => 2#3
  | .memRange => 3#3
  | .stackOverflow => 4#3

/-- Fault entry (60_exceptions.md R217): `mode <- HALT`, the report is written, the step's result is
`display_changed = 0`, and nothing else changes. -/
def State.raise (s : State) (k : Fault) (addr word info : Word) : State :=
  { s with
    mode := .halt, faultCode := k.code, faultAddr := addr, faultWord := word, faultInfo := info,
    displayChanged := false }

/-- The fault of the instruction `i` under way: its address and its word (60_exceptions.md R211 to R215). -/
def State.raiseIn (s : State) (i : Instr) (k : Fault) (info : Word) : Out :=
  .next (s.raise k s.instrAddr (encode i) info)

/-- `stack[SP] <- w; SP <- SP + 1`, where the stack is not full (10_state.md R29). -/
def State.push (s : State) (w : Word) (h : s.sp.val < stackDepth) : State :=
  { s with stack := s.stack.set s.sp.val w h, sp := ⟨s.sp.val + 1, Nat.succ_lt_succ h⟩ }

/-- The entry `Pop()` returns, `stack[SP - 1]` (10_state.md R30); with an empty stack nothing reads it. -/
def State.topOfStack (s : State) : Word := s.stack[s.sp.val - 1]?.getD 0#16

/-- `SP <- SP - 1` (10_state.md R30). -/
def State.dropTop (s : State) : State := { s with sp := ⟨s.sp.val - 1, Nat.lt_of_le_of_lt (Nat.sub_le _ _) s.sp.isLt⟩ }

/-- The byte of memory at `a` (20_memory.md R66). -/
def State.readByte (s : State) (a : Nat) : Byte := s.mem.read a

/-- The `n` bytes of memory from `a` up. -/
def State.readBytes (s : State) (a n : Nat) : List Byte := (List.range n).map (fun k => s.readByte (a + k))

/-- The bytes `bs` stored from `a` up. -/
def State.storeBytes (s : State) (a : Nat) (bs : List Byte) : State := s.setMem (s.mem.writeBytes a bs)

/-- Some byte of the `n` bytes from `I` up lies above 0xFFF: the sum is exact, and no byte is no footprint
(20_memory.md R66, R68). -/
def State.outOfRange (s : State) (n : Nat) : Bool := decide (0 < n ∧ topAddr < s.i.toNat + n - 1)

/-- `max(a, 0x1000)`, the lowest address above 0xFFF of an out-of-range footprint that starts at `a`
(60_exceptions.md R213, R214). -/
def lowestBad (a : Word) : Word := if a ≤ 0x0FFF#16 then 0x1000#16 else a

/-- An access of `n` bytes from `I` up by the instruction `i`: the whole footprint is checked first, then all of the
instruction happens, or none of it (20_memory.md R68, 60_exceptions.md R214). -/
def State.accessing (s : State) (i : Instr) (n : Nat) (done : State) : Out :=
  if s.outOfRange n then s.raiseIn i .memRange (lowestBad s.i) else .next done

/-- `V[0]` to `V[n - 1]`, in order. -/
def State.lowRegs (s : State) (n : Nat) : List Byte := (List.range n).map (fun k => s.readV (BitVec.ofNat 4 k))

/-- `V[k] <- MemRead(I + k, 1)` for `k` from 0 to `n - 1` (45_index_memory.md R205). -/
def State.loadLowRegs (s : State) (n : Nat) : State :=
  (List.range n).foldl (fun t k => t.writeV (BitVec.ofNat 4 k) (s.readByte (s.i.toNat + k))) s

/-- The optional advance of `I` after a batch access (45_index_memory.md R204, R205). -/
def State.advanceI (s : State) (x : RegIx) : State :=
  { s with i := if s.cfg.incrementIndexOnStoreLoad then s.i + BitVec.ofNat 16 (x.toNat + 1) else s.i }

/-- The state after reset as a function of the straps, `FONT` and `PROGRAM` (70_reset_and_hazards.md R240). -/
def State.resetWith (straps : Straps) (font program : List Byte) : State :=
  { State.reset with cfg := straps, mem := Memory.image font program }

/-- `rst` asserted and released (70_reset_and_hazards.md R240): every piece of the core's state takes its reset value.
What the host will present at later step requests is no state of the core and stays (log entry 16). -/
def State.rst (s : State) (straps : Straps) (font program : List Byte) : State :=
  { State.resetWith straps font program with hostInputs := s.hostInputs, drawCount := s.drawCount }

end Sys2Proof.Machine
end

