-- ==== Sys2Proof/Machine/Operands.lean ====
section
/-!
DEFINITION. Every operand form of the spec: registers, immediates widened to 16 bits, the shift source, the base of the
offset jump, the key test, the glyph address, the sprite's start, the decimal digits (00_scope.md R12, R13, 30_encoding.md R93).
-/

namespace Sys2Proof.Machine

/-- `zext_16(nnn)` (30_encoding.md R93). -/
def addrOf (nnn : Addr12) : Word := nnn.setWidth 16

/-- The field `x = w[11:8]` of a word whose `nnn` is given (41_control_flow.md R148). -/
def topNibble (nnn : Addr12) : RegIx := nnn.extractLsb' 8 4

/-- The base register of the offset jump: `V[x]` or `V[0]`, by `cfg_jump_uses_vx` (41_control_flow.md R148). -/
def State.jumpBase (s : State) (nnn : Addr12) : Byte :=
  if s.cfg.jumpUsesVx then s.readV (topNibble nnn) else s.readV 0#4

/-- The operand of a shift: `V[y]` or `V[x]`, by `cfg_shift_uses_vy` (42_alu.md R169, R171). -/
def State.shiftSource (s : State) (x y : RegIx) : Byte :=
  if s.cfg.shiftUsesVy then s.readV y else s.readV x

/-- `(V[x] <= 0x0F) and keys[V[x]] = 1`: the whole byte is the key code (44_keys_timers.md R190). -/
def State.keyDown (s : State) (x : RegIx) : Bool :=
  decide ((s.readV x).toNat ≤ 0x0F) && s.keys.getLsbD (s.readV x).toNat

/-- The lowest asserted key code (40_step_and_dispatch.md R123); 0 where no key is asserted, which nothing reads. -/
def lowestKey (keys : BitVec 16) : Byte :=
  BitVec.ofNat 8 (((List.range 16).find? (fun k => keys.getLsbD k)).getD 0)

/-- `5 * zext_16(b)`, the glyph address (45_index_memory.md R202). -/
def glyphAddr (b : Byte) : Word := 5#16 * b.setWidth 16

/-- The starting column, `V[x] mod 64` (43_display.md R182). -/
def State.startCol (s : State) (x : RegIx) : Nat := (s.readV x).toNat % 64

/-- The starting row, `V[y] mod 32` (43_display.md R182). -/
def State.startRow (s : State) (y : RegIx) : Nat := (s.readV y).toNat % 32

/-- Hundreds, tens and ones of a byte, one byte each (45_index_memory.md R203). -/
def bcdDigits (b : Byte) : List Byte := [b / 100#8, (b / 10#8) % 10#8, b % 10#8]

end Sys2Proof.Machine
end

