-- ==== Sys2Proof/Machine/Alu.lean ====
section
/-!
DEFINITION. The meanings of the loads, the arithmetic, the logic, the shifts and the random byte: `6xnn`, `7xnn`, `8xy0` to
`8xy7`, `8xyE`, `Cxnn` (42_alu.md R160 to R172). Both sources are read first, then `Vx` is written, then `VF`.
-/

namespace Sys2Proof.Machine

/-- The end of `8xy1`, `8xy2`, `8xy3`: `V[x] <- t`, then `VF <- 0` when `cfg_vf_reset_on_logic` is 1 (R164). -/
def State.writeLogic (s : State) (x : RegIx) (t : Byte) : State :=
  if s.cfg.vfResetOnLogic then s.writeResultFlag x t 0#8 else s.writeV x t

/-- `6xnn` LD: `V[x] <- nn` (R161). -/
def execLdImm (x : RegIx) (nn : Byte) (s : State) : Out := .next (s.writeV x nn)

/-- `7xnn` ADD: `V[x] <- (V[x] + nn) mod 256`, no flag (R162). -/
def execAddImm (x : RegIx) (nn : Byte) (s : State) : Out := .next (s.writeV x (sumByte (s.readV x) nn))

/-- `8xy0` LD: `V[x] <- V[y]` (R163). -/
def execLdReg (x y : RegIx) (s : State) : Out := .next (s.writeV x (s.readV y))

/-- `8xy1` OR (R164). -/
def execOrReg (x y : RegIx) (s : State) : Out := .next (s.writeLogic x (s.readV x ||| s.readV y))

/-- `8xy2` AND (R165). -/
def execAndReg (x y : RegIx) (s : State) : Out := .next (s.writeLogic x (s.readV x &&& s.readV y))

/-- `8xy3` XOR (R166). -/
def execXorReg (x y : RegIx) (s : State) : Out := .next (s.writeLogic x (s.readV x ^^^ s.readV y))

/-- `8xy4` ADD with carry out (R167). -/
def execAddReg (x y : RegIx) (s : State) : Out :=
  .next (s.writeResultFlag x (sumByte (s.readV x) (s.readV y)) (carryFlag (s.readV x) (s.readV y)))

/-- `8xy5` SUB: the minuend is `Vx` (R168). -/
def execSubReg (x y : RegIx) (s : State) : Out :=
  .next (s.writeResultFlag x (diffByte (s.readV x) (s.readV y)) (noBorrowFlag (s.readV x) (s.readV y)))

/-- `8xy6` SHR (R169). -/
def execShr (x y : RegIx) (s : State) : Out :=
  .next (s.writeResultFlag x (shiftRight (s.shiftSource x y)) (lowBitFlag (s.shiftSource x y)))

/-- `8xy7` SUBN: the minuend is `Vy` (R170). -/
def execSubnReg (x y : RegIx) (s : State) : Out :=
  .next (s.writeResultFlag x (diffByte (s.readV y) (s.readV x)) (noBorrowFlag (s.readV y) (s.readV x)))

/-- `8xyE` SHL (R171). -/
def execShl (x y : RegIx) (s : State) : Out :=
  .next (s.writeResultFlag x (shiftLeft (s.shiftSource x y)) (highBitFlag (s.shiftSource x y)))

/-- `Cxnn` RND: `V[x] <- rnd AND nn`, `rnd` the step's sample (R172). -/
def execRnd (x : RegIx) (nn : Byte) (s : State) : Out := .next (s.writeV x (s.rnd &&& nn))

end Sys2Proof.Machine
end

