-- ==== Sys2Proof/Machine/Control.lean ====
section
/-!
DEFINITION. The meanings of the control transfers: `00EE`, `1nnn`, `2nnn`, `3xnn`, `4xnn`, `5xy0`, `9xy0`, `Bnnn`
(41_control_flow.md R140 to R148). `PC` is already `a + 2` when a meaning starts.
-/

namespace Sys2Proof.Machine

/-- `00EE` RET: `PC <- Pop()` (R141). -/
def execRet (s : State) : Out :=
  if s.sp.val = 0 then s.raiseIn .ret .stackUnderflow 0#16
  else .next (s.dropTop.setPc s.topOfStack)

/-- `1nnn` JP: `PC <- zext_16(nnn)` (R142). -/
def execJp (nnn : Addr12) (s : State) : Out := .next (s.setPc (addrOf nnn))

/-- `2nnn` CALL: `Push(PC); PC <- zext_16(nnn)` (R143). -/
def execCall (nnn : Addr12) (s : State) : Out :=
  if h : s.sp.val < stackDepth then .next ((s.push s.pc h).setPc (addrOf nnn))
  else s.raiseIn (.call nnn) .stackOverflow 0#16

/-- `3xnn` SE: `if V[x] = nn then PC <- PC + 2` (R144). -/
def execSeImm (x : RegIx) (nn : Byte) (s : State) : Out := .next (s.skipIf (s.readV x == nn))

/-- `4xnn` SNE: `if V[x] != nn then PC <- PC + 2` (R145). -/
def execSneImm (x : RegIx) (nn : Byte) (s : State) : Out := .next (s.skipIf (s.readV x != nn))

/-- `5xy0` SE: `if V[x] = V[y] then PC <- PC + 2` (R146). -/
def execSeReg (x y : RegIx) (s : State) : Out := .next (s.skipIf (s.readV x == s.readV y))

/-- `9xy0` SNE: `if V[x] != V[y] then PC <- PC + 2` (R147). -/
def execSneReg (x y : RegIx) (s : State) : Out := .next (s.skipIf (s.readV x != s.readV y))

/-- `Bnnn` JP V0: `PC <- zext_16(nnn) + zext_16(base)`, exact in 16 bits (R148). -/
def execJpV0 (nnn : Addr12) (s : State) : Out :=
  .next (s.setPc (addrOf nnn + (s.jumpBase nnn).setWidth 16))

end Sys2Proof.Machine
end

