-- ==== Sys2Proof/Machine/Display.lean ====
section
/-!
DEFINITION. The meanings of the display instructions: `00E0`, `Dxyn` (43_display.md R180 to R185).
-/

namespace Sys2Proof.Machine

/-- `00E0` CLS: every pixel off, `display_changed <- 1` (R181). -/
def execCls (s : State) : Out := .next (s.setFrame Frame.blank)

/-- The display buffer and `coll` after the sprite of `n` rows at `I` is drawn (R182). -/
def State.draw (s : State) (x y : RegIx) (n : Nibble) : Drawing :=
  drawRows (s.startCol x) (s.startRow y) (s.readBytes s.i.toNat n.toNat) (s.fb, false)

/-- `Dxyn` DRW: the whole footprint is checked, the sprite is XORed, `VF <- coll`, `display_changed <- 1` (R182). -/
def execDrw (x y : RegIx) (n : Nibble) (s : State) : Out :=
  s.accessing (.drw x y n) n.toNat ((s.setFrame (s.draw x y n).1).writeV regF (flagByte (s.draw x y n).2))

end Sys2Proof.Machine
end

