-- ==== Sys2Proof/Machine/IndexMemory.lean ====
section
/-!
DEFINITION. The meanings of the index register and memory instructions: `Annn`, `Fx1E`, `Fx29`, `Fx33`, `Fx55`, `Fx65`
(45_index_memory.md R200 to R206).
-/

namespace Sys2Proof.Machine

/-- `Annn`: `I <- zext_16(nnn)` (R200). -/
def execLdI (nnn : Addr12) (s : State) : Out := .next (s.setI (addrOf nnn))

/-- `Fx1E`: `I <- (I + zext_16(V[x])) mod 65536`, no flag (R201). -/
def execAddI (x : RegIx) (s : State) : Out := .next (s.setI (s.i + (s.readV x).setWidth 16))

/-- `Fx29`: `I <- 5 * zext_16(V[x])` (R202). -/
def execLdF (x : RegIx) (s : State) : Out := .next (s.setI (glyphAddr (s.readV x)))

/-- `Fx33`: the decimal digits of `Vx` to `I`, `I + 1`, `I + 2` (R203). -/
def execLdB (x : RegIx) (s : State) : Out :=
  s.accessing (.ldB x) 3 (s.storeBytes s.i.toNat (bcdDigits (s.readV x)))

/-- `Fx55`: `V[0]` to `V[x]` to memory from `I` up, then the optional advance (R204). -/
def execStoreRegs (x : RegIx) (s : State) : Out :=
  s.accessing (.storeRegs x) (x.toNat + 1) ((s.storeBytes s.i.toNat (s.lowRegs (x.toNat + 1))).advanceI x)

/-- `Fx65`: `V[0]` to `V[x]` from memory from `I` up, then the optional advance (R205). -/
def execLoadRegs (x : RegIx) (s : State) : Out :=
  s.accessing (.loadRegs x) (x.toNat + 1) ((s.loadLowRegs (x.toNat + 1)).advanceI x)

end Sys2Proof.Machine
end

