-- ==== Sys2Proof/Machine/KeysTimers.lean ====
section
/-!
DEFINITION. The meanings of the key and timer instructions: `Ex9E`, `ExA1`, `Fx07`, `Fx0A`, `Fx15`, `Fx18`
(44_keys_timers.md R190 to R195).
-/

namespace Sys2Proof.Machine

/-- `Ex9E` SKP: skip if the key in `Vx` is pressed (R190). -/
def execSkp (x : RegIx) (s : State) : Out := .next (s.skipIf (s.keyDown x))

/-- `ExA1` SKNP: skip if the key in `Vx` is not pressed (R191). -/
def execSknp (x : RegIx) (s : State) : Out := .next (s.skipIf (!s.keyDown x))

/-- `Fx07`: `V[x] <- DT` (R192). -/
def execLdVxDT (x : RegIx) (s : State) : Out := .next (s.writeV x s.dt)

/-- `Fx0A`: `wait_valid <- 1; wait_reg <- x`, and nothing else (R193). -/
def execLdVxK (x : RegIx) (s : State) : Out := .next (s.setWait x)

/-- `Fx15`: `DT <- V[x]` (R194). -/
def execLdDTVx (x : RegIx) (s : State) : Out := .next (s.setDT (s.readV x))

/-- `Fx18`: `ST <- V[x]` (R195). -/
def execLdSTVx (x : RegIx) (s : State) : Out := .next (s.setST (s.readV x))

end Sys2Proof.Machine
end

