-- ==== Sys2Proof/Machine/Cycle.lean ====
section
/-!
DEFINITION. The step transition (40_step_and_dispatch.md R120), as a function of what the host presents: the divider, the
key latch, the tick, the fetch, the dispatch. Step.lean gives it the next of the host's inputs.
-/

namespace Sys2Proof.Machine

/-- `div <- min(div + elapsed, TICK_PERIOD); display_changed <- 0`: the start of every step, in every mode (R120, R122). -/
def State.beginStep (s : State) (elapsed : Nat) : State :=
  { s with div := min (s.div + elapsed) Config.tickPeriod, displayChanged := false }

/-- The step is a no-op: halted, or waiting with no key (R121, R123). -/
def State.idle (s : State) (keys : BitVec 16) : Bool :=
  decide (s.mode = .halt) || (s.waitValid && keys == 0#16)

/-- The one sample of `keys` and `rnd` that serves the whole step (R128). -/
def State.sample (s : State) (inp : StepInput) : State := { s with keys := inp.keys, rnd := inp.rnd }

/-- Step 2: where the latch is set, `V[wait_reg]` receives the lowest asserted key and the latch is cleared (R123). -/
def State.satisfyWait (s : State) : State :=
  if s.waitValid then (s.writeV s.waitReg (lowestKey s.keys)).clearWait else s

/-- A timer one tick later, never below 0 (R124). -/
def countDown (b : Byte) : Byte := if b = 0#8 then 0#8 else b - 1#8

/-- A tick is due: `div >= TICK_PERIOD` (R124). -/
def State.tickDue (s : State) : Bool := decide (Config.tickPeriod ≤ s.div)

/-- Step 3: on a tick both timers count down and `div <- 0` (R124). -/
def State.tick (s : State) : State :=
  { s with
    dt := if s.tickDue then countDown s.dt else s.dt
    st := if s.tickDue then countDown s.st else s.st
    div := if s.tickDue then 0 else s.div }

/-- The state at step 4, just before the fetch: steps 1 to 3 done (R120). -/
def State.beforeFetch (s : State) (inp : StepInput) : State :=
  (((s.beginStep inp.elapsed).sample inp).satisfyWait).tick

/-- The word at `PC`, high byte first, or none when a byte of it lies above 0xFFF (20_memory.md R67). -/
def State.fetch (s : State) : Option Word :=
  if topAddr ≤ s.pc.toNat then none
  else some (wordOfBytes (s.readByte s.pc.toNat) (s.readByte (s.pc.toNat + 1)))

/-- The fetch fault: `PC` stays, no word is recorded (60_exceptions.md R213). -/
def State.fetchFault (s : State) : Out := .next (s.raise .memRange s.pc 0#16 (lowestBad s.pc))

/-- The fault of a word that is no instruction (60_exceptions.md R211): `PC` is already `a + 2`. -/
def State.decodeFault (s : State) (w : Word) : Out := .next (s.raise .decodeError s.instrAddr w 0#16)

/-- Step 5: the word `w` dispatched, `PC` already `a + 2` (R126). -/
def State.dispatch (s : State) (w : Word) : Out :=
  match decode w with
  | .ok i => exec i s
  | .error _ => s.decodeFault w

/-- Steps 4 and 5: fetch, advance `PC` by 2, dispatch (R125, R126). -/
def State.fetchAndRun (s : State) : Out :=
  match s.fetch with
  | none => s.fetchFault
  | some w => (s.setPc (s.pc + 2#16)).dispatch w

/-- One step as a function of the host's `keys`, `elapsed`, `rnd` (R120). Step 6, `display_changed`, is set by the
display instructions themselves. -/
def stepWith (inp : StepInput) (s : State) : Out :=
  if s.idle inp.keys then .next (s.beginStep inp.elapsed) else (s.beforeFetch inp).fetchAndRun

/-- What the host presents at the next step request: the oldest entry of `hostInputs`, or a free draw (log entry 2). -/
def State.nextInput (s : State) : StepInput :=
  match s.hostInputs with
  | inp :: _ => inp
  | [] => Config.freeInput s.drawCount

/-- The host's inputs after that request is taken. -/
def State.takeInput (s : State) : State :=
  { s with
    hostInputs := s.hostInputs.tail
    drawCount := if s.hostInputs.isEmpty then s.drawCount + 1 else s.drawCount }

/-- `s` ready to fetch: running, not waiting, no fault reported, `PC` where two bytes can be fetched. It changes nothing
in a state that already is so. -/
def State.readyToFetch (s : State) : State :=
  { s with
    mode := .run
    faultCode := if s.mode = .run then s.faultCode else 0#3
    faultAddr := if s.mode = .run then s.faultAddr else 0#16
    faultWord := if s.mode = .run then s.faultWord else 0#16
    faultInfo := if s.mode = .run then s.faultInfo else 0#16
    waitValid := false
    pc := if topAddr ≤ s.pc.toNat then 0x0200#16 else s.pc }

end Sys2Proof.Machine
end

