-- ==== Sys2Proof/Machine/Step.lean ====
section
/-!
DEFINITION. One step of the machine, and an instruction placed where the next step fetches.
-/

namespace Sys2Proof.Machine

/-- One step request: the transition of 40_step_and_dispatch.md R120 on what the host presents next (log entry 2). -/
def step (s : State) : Host.Outcome State Fault Refusal := stepWith s.nextInput s.takeInput

/-- `s` with the instruction of the opcode table's word `w` stored at `PC` (log entry 6): the next step runs it. -/
def State.withFetchWord (s : State) (nbits w : Nat) : State :=
  s.readyToFetch.storeBytes s.readyToFetch.pc.toNat (tableBytes nbits w)

end Sys2Proof.Machine
end

