-- ==== Sys2Proof/Machine/EndOfRun.lean ====
section
/-!
DEFINITION. The end of a run (40_step_and_dispatch.md R131). Of its three ways, (a) and (c) are seen in the state and stand here;
(b), the host stops calling step, is the host's: a run of `k` steps (`Host.Core.run`) is over after its `k` steps.
-/

namespace Sys2Proof.Machine

/-- How a state shows that a run has ended (40_step_and_dispatch.md R131). -/
inductive RunEnd where
  /-- end (a): `mode = HALT` -/
  | faulted
  /-- end (c): a jump to itself at `PC` -/
  | selfJump
  deriving DecidableEq, Repr

/-- `w` is `1nnn` with `nnn = a`. -/
def jumpsTo (w a : Word) : Bool :=
  match decode w with
  | .ok (.jp nnn) => addrOf nnn == a
  | _ => false

/-- The machine runs, no key is waited for, `PC = a`, and the word at `a` is `1nnn` with `nnn = a`
(40_step_and_dispatch.md R131 (c)). -/
def State.atSelfJump (s : State) : Bool :=
  decide (s.mode = .run) && !s.waitValid &&
    match s.fetch with
    | some w => jumpsTo w s.pc
    | none => false

/-- THE END-OF-RUN PREDICATE: how the run has ended, if it has (40_step_and_dispatch.md R131, log entry 22). A machine that
waits for a key has not ended its run. -/
def State.runEnd (s : State) : Option RunEnd :=
  if s.mode = .halt then some .faulted else if s.atSelfJump then some .selfJump else none

/-- The run ended by decode error at the address `a`, as a program's own specification may ask (40_step_and_dispatch.md R131,
60_exceptions.md R221). -/
def State.endedByDecodeErrorAt (s : State) (a : Word) : Bool :=
  decide (s.mode = .halt) && s.faultCode == Fault.decodeError.code && s.faultAddr == a

end Sys2Proof.Machine
end

