-- ==== Sys2Proof/Machine/Outputs.lean ====
section
/-!
DEFINITION. The output ports of the block (00_scope.md R5), each computed from the state the last step left. The fault report
ports are the fields `faultCode`, `faultAddr`, `faultWord`, `faultInfo`, and `display_changed` is the field `displayChanged`.
-/

namespace Sys2Proof.Machine

/-- `tone_active`: 1 exactly when `ST` is not 0 (10_state.md R32). -/
def State.toneActive (s : State) : Bool := s.st != 0#8

/-- `halted`: 1 exactly when `mode = HALT` (10_state.md R37). -/
def State.halted (s : State) : Bool := decide (s.mode = .halt)

/-- `waiting`: equals `wait_valid` (10_state.md R35). -/
def State.waiting (s : State) : Bool := s.waitValid

/-- `fb_rdata` for `fb_raddr = row * 64 + col` (00_scope.md R5, 10_state.md R34). -/
def State.frameRead (s : State) (addr : BitVec 11) : Bool := s.fb.pixel (addr.toNat / 64) (addr.toNat % 64)

end Sys2Proof.Machine
end

