-- ==== Sys2Proof/Safety.lean ====
section
/-!
DEFINITION. The terms that claims about the machine use: its invariant, what an instruction leaves unchanged, and what a
fault reports.
-/

namespace Sys2Proof.Machine

/-- What holds in every state a run reaches (10_state.md R26, R43; 20_memory.md R60). That `SP` is at most 16 is in its
type. -/
structure State.Inv (s : State) : Prop where
  /-- memory is in canonical form, inside 0x000 to 0xFFF -/
  memory : s.mem.wf
  /-- `div <= TICK_PERIOD` (R43) -/
  divider : s.div ≤ Config.tickPeriod
  /-- `mode = HALT` exactly when `fault_code` is not 0 (R43) -/
  halted : s.mode = .halt ↔ s.faultCode ≠ 0#3
  /-- fault codes 5 to 7 are never produced (R38) -/
  codes : s.faultCode.toNat ≤ 4
  /-- before any fault all four registers read 0 (60_exceptions.md R216) -/
  quiet : s.faultCode = 0#3 → s.faultAddr = 0#16 ∧ s.faultWord = 0#16 ∧ s.faultInfo = 0#16
  /-- a stack entry in use is at most 0x1000 (R43) -/
  entries : ∀ j (h : j < stackDepth), j < s.sp.val → (s.stack[j]).toNat ≤ 0x1000
  /-- `PC` is at most 0x10FE (R26) -/
  counter : s.pc.toNat ≤ 0x10FE

/-- A piece of state beside the general registers. -/
inductive Part where
  /-- `I` -/
  | index
  /-- `PC` -/
  | pc
  /-- `SP` and the sixteen entries -/
  | stack
  /-- `DT` -/
  | delay
  /-- `ST` -/
  | sound
  /-- `FB` -/
  | frame
  /-- `display_changed` -/
  | changed
  /-- `wait_valid` and `wait_reg` -/
  | wait
  /-- `div` -/
  | divider
  /-- `mode` -/
  | mode
  /-- `fault_code`, `fault_addr`, `fault_word`, `fault_info` -/
  | report
  /-- `CFG` -/
  | config
  /-- every byte of memory -/
  | memory
  /-- the samples of `keys` and `rnd` -/
  | samples
  /-- what the host will present -/
  | host
  deriving DecidableEq, Repr

/-- The piece of state is the same in `t` as in `s`. -/
def Part.Same (p : Part) (s t : State) : Prop :=
  match p with
  | .index => t.i = s.i
  | .pc => t.pc = s.pc
  | .stack => t.sp = s.sp ∧ t.stack = s.stack
  | .delay => t.dt = s.dt
  | .sound => t.st = s.st
  | .frame => t.fb = s.fb
  | .changed => t.displayChanged = s.displayChanged
  | .wait => t.waitValid = s.waitValid ∧ t.waitReg = s.waitReg
  | .divider => t.div = s.div
  | .mode => t.mode = s.mode
  | .report => t.faultCode = s.faultCode ∧ t.faultAddr = s.faultAddr ∧ t.faultWord = s.faultWord ∧
      t.faultInfo = s.faultInfo
  | .config => t.cfg = s.cfg
  | .memory => ∀ a, t.readByte a = s.readByte a
  | .samples => t.keys = s.keys ∧ t.rnd = s.rnd
  | .host => t.hostInputs = s.hostInputs ∧ t.drawCount = s.drawCount

/-- The frame: every general register but those of `regs`, and every other piece of state but those of `parts`, is the same
in `t` as in `s`. -/
def KeptBut (regs : List RegIx) (parts : List Part) (s t : State) : Prop :=
  (∀ r, r ∉ regs → t.readV r = s.readV r) ∧ ∀ p, p ∉ parts → p.Same s t

/-- `t` is halted with this fault report, and its step reported no display change (60_exceptions.md R217). -/
def Reports (t : State) (k : Fault) (addr word info : Word) : Prop :=
  t.mode = .halt ∧ t.faultCode = k.code ∧ t.faultAddr = addr ∧ t.faultWord = word ∧ t.faultInfo = info ∧
    t.displayChanged = false

/-- The faulting instruction did nothing of its own: only the fault entry shows (60_exceptions.md R217). -/
def OnlyFaulted (s t : State) : Prop := KeptBut [] [.mode, .report, .changed] s t

/-- The two bytes at `PC` as a word, high byte first (20_memory.md R67). -/
def State.wordAtPc (s : State) : Word :=
  wordOfBytes (s.readByte s.pc.toNat) (s.readByte (s.pc.toNat + 1))

/-- The step fetches: it is no no-op (40_step_and_dispatch.md R121, R123). -/
def State.Fetches (s : State) (keys : BitVec 16) : Prop :=
  s.mode = .run ∧ (s.waitValid = true → keys ≠ 0#16)

/-- The sprite of these bytes, its top left corner at row `y0` and column `x0`, has a set bit over row `r`, column `c`:
row `r - y0`, bit 7 leftmost (43_display.md R182). Whether the pixel is on the screen is asked apart. -/
def spriteBit (x0 y0 : Nat) (bytes : List Byte) (r c : Nat) : Bool :=
  decide (y0 ≤ r ∧ r < y0 + bytes.length ∧ x0 ≤ c ∧ c < x0 + 8) && (bytes.getD (r - y0) 0#8).getLsbD (7 - (c - x0))

/-- Some byte of the `n` bytes from `I` up lies above 0xFFF; no byte is no footprint (20_memory.md R66, R68). -/
abbrev State.Beyond (s : State) (n : Nat) : Prop := 0 < n ∧ 0xFFF < s.i.toNat + n - 1

/-- `max(I, 0x1000)`, the `fault_info` of a data access out of range (60_exceptions.md R214). -/
def State.beyondInfo (s : State) : Word := BitVec.ofNat 16 (max s.i.toNat 0x1000)

/-- The fault an instruction raises in `s`, with its `fault_info`, or none: the table of 60_exceptions.md R210. -/
def instrFault (i : Instr) (s : State) : Option (Fault × Word) :=
  match i with
  | .ret => if s.sp.val = 0 then some (.stackUnderflow, 0#16) else none
  | .call _ => if s.sp.val = stackDepth then some (.stackOverflow, 0#16) else none
  | .drw _ _ n => if s.Beyond n.toNat then some (.memRange, s.beyondInfo) else none
  | .ldB _ => if s.Beyond 3 then some (.memRange, s.beyondInfo) else none
  | .storeRegs x | .loadRegs x => if s.Beyond (x.toNat + 1) then some (.memRange, s.beyondInfo) else none
  | .cls | .jp _ | .seImm _ _ | .sneImm _ _ | .seReg _ _ | .ldImm _ _ | .addImm _ _ | .ldReg _ _ | .orReg _ _
  | .andReg _ _ | .xorReg _ _ | .addReg _ _ | .subReg _ _ | .shr _ _ | .subnReg _ _ | .shl _ _ | .sneReg _ _ | .ldI _
  | .jpV0 _ | .rnd _ _ | .skp _ | .sknp _ | .ldVxDT _ | .ldVxK _ | .ldDTVx _ | .ldSTVx _ | .addI _ | .ldF _ => none

/-- The general registers an instruction may write: the last column of the table of 10_state.md R22. -/
def instrWrites (i : Instr) (cfg : Straps) : List RegIx :=
  match i with
  | .ldImm x _ | .addImm x _ | .ldReg x _ | .rnd x _ | .ldVxDT x => [x]
  | .orReg x _ | .andReg x _ | .xorReg x _ => if cfg.vfResetOnLogic then [x, regF] else [x]
  | .addReg x _ | .subReg x _ | .subnReg x _ | .shr x _ | .shl x _ => [x, regF]
  | .drw _ _ _ => [regF]
  | .loadRegs x => (List.range (x.toNat + 1)).map (BitVec.ofNat 4)
  | .cls | .ret | .jp _ | .call _ | .seImm _ _ | .sneImm _ _ | .seReg _ _ | .sneReg _ _ | .ldI _ | .jpV0 _ | .skp _
  | .sknp _ | .ldVxK _ | .ldDTVx _ | .ldSTVx _ | .addI _ | .ldF _ | .ldB _ | .storeRegs _ => []

/-- The other state an instruction that does not fault may change: 10_state.md R25, R27, R29, R31, R32, R34, R35 and
20_memory.md R61. -/
def instrChanges (i : Instr) (cfg : Straps) : List Part :=
  match i with
  | .cls | .drw _ _ _ => [.frame, .changed]
  | .ret | .call _ => [.pc, .stack]
  | .jp _ | .jpV0 _ | .seImm _ _ | .sneImm _ _ | .seReg _ _ | .sneReg _ _ | .skp _ | .sknp _ => [.pc]
  | .ldVxK _ => [.wait]
  | .ldDTVx _ => [.delay]
  | .ldSTVx _ => [.sound]
  | .ldI _ | .addI _ | .ldF _ => [.index]
  | .ldB _ => [.memory]
  | .storeRegs _ => if cfg.incrementIndexOnStoreLoad then [.memory, .index] else [.memory]
  | .loadRegs _ => if cfg.incrementIndexOnStoreLoad then [.index] else []
  | .ldImm _ _ | .addImm _ _ | .ldReg _ _ | .orReg _ _ | .andReg _ _ | .xorReg _ _ | .addReg _ _ | .subReg _ _ | .shr _ _
  | .subnReg _ _ | .shl _ _ | .rnd _ _ | .ldVxDT _ => []

/-- The key in `V[x]` is pressed: the whole byte is the key code (44_keys_timers.md R190). -/
abbrev State.Pressed (s : State) (x : RegIx) : Prop :=
  (s.readV x).toNat ≤ 0x0F ∧ s.keys.getLsbD (s.readV x).toNat = true

/-- `PC` after an instruction that does not fault (10_state.md R25): `s.pc` is `a + 2`, so a skip taken gives `a + 4`. -/
def instrPc (i : Instr) (s : State) : Nat :=
  match i with
  | .jp nnn | .call nnn => nnn.toNat
  | .jpV0 nnn => nnn.toNat + (if s.cfg.jumpUsesVx then s.readV (fieldX (encode i)) else s.readV 0#4).toNat
  | .ret => (s.stack[s.sp.val - 1]?.getD 0#16).toNat
  | .seImm x nn => (if s.readV x = nn then s.pc + 2#16 else s.pc).toNat
  | .sneImm x nn => (if s.readV x ≠ nn then s.pc + 2#16 else s.pc).toNat
  | .seReg x y => (if s.readV x = s.readV y then s.pc + 2#16 else s.pc).toNat
  | .sneReg x y => (if s.readV x ≠ s.readV y then s.pc + 2#16 else s.pc).toNat
  | .skp x => (if s.Pressed x then s.pc + 2#16 else s.pc).toNat
  | .sknp x => (if ¬ s.Pressed x then s.pc + 2#16 else s.pc).toNat
  | .cls | .ldImm _ _ | .addImm _ _ | .ldReg _ _ | .orReg _ _ | .andReg _ _ | .xorReg _ _ | .addReg _ _ | .subReg _ _
  | .shr _ _ | .subnReg _ _ | .shl _ _ | .ldI _ | .rnd _ _ | .drw _ _ _ | .ldVxDT _ | .ldVxK _ | .ldDTVx _ | .ldSTVx _
  | .addI _ | .ldF _ | .ldB _ | .storeRegs _ | .loadRegs _ => s.pc.toNat

end Sys2Proof.Machine
end

