-- ==== Sys2Proof/Certificates/Slice0/Obligations.lean ====
section
/-!
DEFINITION. The statements for the provers, each a `def Obligations.<Name> : Prop` that formalises rules of spec/. Frames say what is
left unchanged: `KeptBut regs parts s t` is every general register but `regs` and every other piece of state, every byte of
memory among them, but `parts`. A meaning runs with `s.pc` already `a + 2`. The `decode` clauses rest on the patterns of
30_encoding.md R95 as they stand there, 27 of them from general knowledge (log entry 9).
-/

open Sys2Proof Sys2Proof.Machine

-- ==== Encoding ====

/-- One word or two of each format, written out from 30_encoding.md R92 and R95, decode to the instruction they stand for.
The patterns are R95's, most of them from general knowledge (log entry 9). -/
def Obligations.WordsOfEachFormatDecode : Prop :=
  decode 0x00E0#16 = .ok .cls ∧ decode 0x00EE#16 = .ok .ret ∧ decode 0x1228#16 = .ok (.jp 0x228#12) ∧
  decode 0x6A2B#16 = .ok (.ldImm 0xA#4 0x2B#8) ∧ decode 0x8124#16 = .ok (.addReg 1#4 2#4) ∧
  decode 0xD12A#16 = .ok (.drw 1#4 2#4 0xA#4) ∧ decode 0xE29E#16 = .ok (.skp 2#4) ∧
  decode 0xF265#16 = .ok (.loadRegs 2#4) ∧ decode 0x5121#16 = .error .family5

/-- Decoding the word of an instruction gives the instruction back, for every instruction and every operand. -/
def Obligations.DecodeOfEncodeIsTheInstruction : Prop :=
  ∀ i : Instr, decode (encode i) = .ok i

/-- No bit of a legal word is dropped: the word of what a word decodes to is the word. -/
def Obligations.EncodeOfDecodeIsTheWord : Prop :=
  ∀ (w : Word) (i : Instr), decode w = .ok i → encode i = w

/-- The decision tree (30_encoding.md R94) and the table of masks and matches (R95) agree: a word decodes to an instruction of
a row exactly when it spells the row, and it spells at most one row. -/
def Obligations.WordsDecodeAsTheirTableRow : Prop :=
  (∀ w row, row ∈ opcodeTable → row.spells w = true → ∃ i, decode w = .ok i ∧ i.mnemonic = row.mnemonic) ∧
  (∀ w i, decode w = .ok i → ∃ row ∈ opcodeTable, row.spells w = true ∧ row.mnemonic = i.mnemonic) ∧
  (∀ w row row', row ∈ opcodeTable → row' ∈ opcodeTable → row.spells w = true → row'.spells w = true → row = row')

/-- The words that are no instruction are exactly the six families of 30_encoding.md R97, each rejected by its name. -/
def Obligations.IllegalWordsAreTheListedFamilies : Prop :=
  ∀ w : Word,
    (decode w = .error .family0 ↔ fieldOp w = 0x0#4 ∧ w ≠ 0x00E0#16 ∧ w ≠ 0x00EE#16) ∧
    (decode w = .error .family5 ↔ fieldOp w = 0x5#4 ∧ fieldN w ≠ 0#4) ∧
    (decode w = .error .family8 ↔
      fieldOp w = 0x8#4 ∧ fieldN w ∈ [0x8#4, 0x9#4, 0xA#4, 0xB#4, 0xC#4, 0xD#4, 0xF#4]) ∧
    (decode w = .error .family9 ↔ fieldOp w = 0x9#4 ∧ fieldN w ≠ 0#4) ∧
    (decode w = .error .familyE ↔ fieldOp w = 0xE#4 ∧ fieldNN w ∉ [0x9E#8, 0xA1#8]) ∧
    (decode w = .error .familyF ↔
      fieldOp w = 0xF#4 ∧
        fieldNN w ∉ [0x07#8, 0x0A#8, 0x15#8, 0x18#8, 0x1E#8, 0x29#8, 0x33#8, 0x55#8, 0x65#8]) ∧
    decode w ≠ .error .truncated

-- ==== Reset ====

/-- After `rst`, whatever the state before, every piece of state has the value of the table of 10_state.md R44, for any
straps, `FONT` and `PROGRAM`.
The values are the spec's decisions D3 and D4 (log entry 7). -/
def Obligations.ResetLeavesTheListedValues : Prop :=
  ∀ (s : State) (straps : Straps) (font program : List Byte),
    let t := s.rst straps font program
    (∀ r, t.readV r = 0#8) ∧ t.i = 0#16 ∧ t.pc = 0x0200#16 ∧ t.sp.val = 0 ∧ (∀ j, j < 16 → t.stack[j]? = some 0#16) ∧
    t.dt = 0#8 ∧ t.st = 0#8 ∧ t.toneActive = false ∧ (∀ r c, t.fb.pixel r c = false) ∧
    t.waitValid = false ∧ t.waitReg = 0#4 ∧ t.div = 0 ∧ t.mode = .run ∧
    t.faultCode = 0#3 ∧ t.faultAddr = 0#16 ∧ t.faultWord = 0#16 ∧ t.faultInfo = 0#16 ∧
    t.cfg = straps ∧ t.mem = Memory.image font program ∧ t.displayChanged = false

/-- The memory after reset byte by byte (20_memory.md R64), with a `PROGRAM` longer than 3584 bytes cut (R65): `FONT`, then zeros,
then the program, then zeros.
That 0x050 to 0x1FF reads 0x00 is the spec's decision D5 (log entry 8). -/
def Obligations.ResetImageOfMemory : Prop :=
  ∀ (s : State) (straps : Straps) (font program : List Byte), font.length = 80 →
    let t := s.rst straps font program
    (∀ a, a ≤ 0x04F → t.readByte a = font.getD a 0#8) ∧
    (∀ a, 0x050 ≤ a → a ≤ 0x1FF → t.readByte a = 0#8) ∧
    (∀ a, 0x200 ≤ a → a ≤ 0xFFF → t.readByte a = if a - 0x200 < program.length then program.getD (a - 0x200) 0#8 else 0#8)

/-- The reset state meets the invariant.
The reset values are those of log entries 3, 5, 6 and 7. -/
def Obligations.ResetStateMeetsInvariant : Prop := State.reset.Inv

/-- Whatever the state before, the state after `rst` meets the invariant, for any straps, `FONT` and `PROGRAM`.
The reset values are the spec's decisions D3 to D5 (log entry 7). -/
def Obligations.EveryRstMeetsInvariant : Prop :=
  ∀ (s : State) (straps : Straps) (font program : List Byte), (s.rst straps font program).Inv

/-- The first step after reset (70_reset_and_hazards.md R242): with an empty `PROGRAM` it fetches 0x0000 at 0x0200 and raises
`DecodeError`, whatever the straps, the `FONT` and the inputs; only the divider, the samples, `PC` and the fault entry change.
The spec derives this; that 0x0000 is illegal is its decision D8 (log entry 15). -/
def Obligations.FirstStepWithNoProgramFaults : Prop :=
  ∀ (s : State) (straps : Straps) (font : List Byte) (inp : StepInput), font.length = 80 →
    let r := s.rst straps font []
    ∃ t, stepWith inp r = .next t ∧ Reports t .decodeError 0x0200#16 0x0000#16 0x0000#16 ∧ t.pc = 0x0202#16 ∧
      t.div = (if Config.tickPeriod ≤ inp.elapsed then 0 else inp.elapsed) ∧
      KeptBut [] [.pc, .divider, .samples, .mode, .report, .changed] r t

-- ==== The step ====

/-- THE INVARIANT: every step keeps it, from every state that meets it. -/
def Obligations.StepKeepsInvariant : Prop :=
  ∀ s t : State, s.Inv → step s = .next t → t.Inv

/-- Every step answers a next state: the four faults of the spec are next states in `HALT` (log entry 1), and no instruction is
refused. -/
def Obligations.EveryStepAnswersANextState : Prop :=
  ∀ s : State, ∃ t, step s = .next t

/-- A step of a halted machine (40_step_and_dispatch.md R121): nothing but `div` changes and `display_changed` is 0, so every
output stays, `tone_active` among them.
That such a step is accepted is the spec's decision D28 (log entry 15). -/
def Obligations.HaltedStepChangesOnlyDivider : Prop :=
  ∀ (inp : StepInput) (s : State), s.mode = .halt →
    ∃ t, stepWith inp s = .next t ∧ t.div = min (s.div + inp.elapsed) Config.tickPeriod ∧ t.displayChanged = false ∧
      KeptBut [] [.divider, .changed] s t ∧ t.mem = s.mem ∧ t.toneActive = s.toneActive ∧ t.halted = true ∧ t.waiting = s.waiting

/-- Steps 1 and 2 (40_step_and_dispatch.md R123). Waiting with no key: nothing but the divider changes, which
counts on up to `TICK_PERIOD` (R122), and nothing is fetched. Waiting
with a key: the lowest asserted key goes to the pending register, the latch is cleared, and the same step goes on to the tick,
the fetch and the instruction at `PC`.
The lowest key, the same step and the level test are the spec's decision D14 (log entry 15). -/
def Obligations.KeyWaitHoldsUntilAKeyIsDown : Prop :=
  ∀ (inp : StepInput) (s : State), s.mode = .run → s.waitValid = true →
    (inp.keys = 0#16 → ∃ t, stepWith inp s = .next t ∧ t.div = min (s.div + inp.elapsed) Config.tickPeriod ∧
      t.displayChanged = false ∧ t.mem = s.mem ∧ KeptBut [] [.divider, .changed] s t) ∧
    (∀ k, k < 16 → inp.keys.getLsbD k = true → (∀ j, j < k → inp.keys.getLsbD j = false) →
      ∃ p : State, p.readV s.waitReg = BitVec.ofNat 8 k ∧ p.waitValid = false ∧ p.keys = inp.keys ∧ p.rnd = inp.rnd ∧
        p.div = min (s.div + inp.elapsed) Config.tickPeriod ∧ p.displayChanged = false ∧
        KeptBut [s.waitReg] [.wait, .divider, .changed, .samples] s p ∧ stepWith inp s = p.tick.fetchAndRun)

/-- Step 3 (40_step_and_dispatch.md R124): when the divider has reached `TICK_PERIOD`, each timer that is not 0 loses 1 and the divider
is cleared; otherwise the timers stay. Every step that gets past steps 1 and 2 does so before its fetch (`beforeFetch`). -/
def Obligations.TickCountsTimersDown : Prop :=
  ∀ (inp : StepInput) (s : State),
    let p := s.beforeFetch inp
    (Config.tickPeriod ≤ s.div + inp.elapsed →
      p.dt.toNat = s.dt.toNat - 1 ∧ p.st.toNat = s.st.toNat - 1 ∧ p.div = 0) ∧
    (s.div + inp.elapsed < Config.tickPeriod → p.dt = s.dt ∧ p.st = s.st ∧ p.div = s.div + inp.elapsed) ∧
    (s.Fetches inp.keys → stepWith inp s = p.fetchAndRun)

/-- What steps 1 to 3 leave for the fetch: they take the samples of `keys` and `rnd`, and change nothing but the timers, `div` and
`display_changed`, and, where the latch was set, the waiting register and the latch (the spec's decision D14, log entry 15; the
samples are the model's own fields, log entry 10). -/
def Obligations.StepsOneToThreeKeepAllElse : Prop :=
  ∀ (inp : StepInput) (s : State),
    let p := s.beforeFetch inp
    p.keys = inp.keys ∧ p.rnd = inp.rnd ∧ p.displayChanged = false ∧ p.mem = s.mem ∧
    (s.waitValid = false → KeptBut [] [.delay, .sound, .divider, .changed, .samples] s p) ∧
    (s.waitValid = true → p.waitValid = false ∧ p.waitReg = s.waitReg ∧
      KeptBut [s.waitReg] [.wait, .delay, .sound, .divider, .changed, .samples] s p)

/-- A STEP RUNS THE DECODED INSTRUCTION. For every state, step is stepWith on the host's oldest request, or on a free draw where the
host has fixed none, and the state without that request; and when that step is no no-op and the two bytes at `PC` decode to `i`,
it is exec of `i` on the state after steps 1 to 3 with `PC` moved past the word. `nextInput` and `takeInput` are the model's own
(log entry 2), and `takeInput` leaves all but the host's inputs. -/
def Obligations.StepRunsTheDecodedInstruction : Prop :=
  ∀ s : State,
    step s = stepWith s.nextInput s.takeInput ∧ KeptBut [] [.host] s s.takeInput ∧
    (∀ inp rest, s.hostInputs = inp :: rest → s.nextInput = inp ∧ s.takeInput.hostInputs = rest) ∧
    (s.hostInputs = [] → s.nextInput = Config.freeInput s.drawCount ∧ s.takeInput.drawCount = s.drawCount + 1) ∧
    ∀ i : Instr, s.Fetches s.nextInput.keys → s.pc.toNat ≤ 0xFFE → decode s.wordAtPc = .ok i →
      step s = exec i ((s.takeInput.beforeFetch s.nextInput).setPc (s.pc + 2#16))

/-- The fetch fault (60_exceptions.md R213): its report, `PC` not moved, and a fault is a fetch fault exactly when `fault_addr` is
above 0xFFE.
The number of the code is the spec's decision D17 (log entry 15). -/
def Obligations.FetchFaultIsReported : Prop :=
  (∀ (inp : StepInput) (s : State), s.Fetches inp.keys → 0xFFE < s.pc.toNat →
    ∃ t, stepWith inp s = .next t ∧
      Reports t .memRange s.pc 0x0000#16 (BitVec.ofNat 16 (max s.pc.toNat 0x1000)) ∧
      OnlyFaulted (s.beforeFetch inp) t ∧ t.pc = s.pc) ∧
  (∀ (inp : StepInput) (s t : State), s.mode = .run → stepWith inp s = .next t → t.mode = .halt →
    (0xFFE < t.faultAddr.toNat ↔ 0xFFE < s.pc.toNat))

/-- The decode error (60_exceptions.md R211): its report, with `PC` past the word.
The number of the code is the spec's decision D17 (log entry 15). -/
def Obligations.DecodeErrorIsReported : Prop :=
  ∀ (inp : StepInput) (s : State) (e : Illegal), s.Fetches inp.keys → s.pc.toNat ≤ 0xFFE →
    decode s.wordAtPc = .error e →
    ∃ t, stepWith inp s = .next t ∧ Reports t .decodeError s.pc s.wordAtPc 0x0000#16 ∧ t.pc = s.pc + 2#16 ∧
      KeptBut [] [.pc, .mode, .report, .changed] (s.beforeFetch inp) t

/-- Fault entry (60_exceptions.md R217): whatever faults in a step, the effects of steps 1 to 3 stay, `PC` is past the word but for a
fetch fault, none of the instruction's own writes happen, the machine is halted with a report, and `display_changed` is 0.
That the state is left precise is the spec's decision D17 (log entry 15). -/
def Obligations.FaultEntryIsPrecise : Prop :=
  ∀ (inp : StepInput) (s t : State), s.mode = .run → stepWith inp s = .next t → t.mode = .halt →
    t.pc = (if 0xFFE < s.pc.toNat then s.pc else s.pc + 2#16) ∧
    KeptBut [] [.pc, .mode, .report, .changed] (s.beforeFetch inp) t ∧
    t.faultCode ≠ 0#3 ∧ t.faultAddr = s.pc ∧ t.displayChanged = false

/-- Every instruction faults exactly when the table of 60_exceptions.md R210 says (`instrFault`), with the report of R212, R214 and
R215 and nothing of its own done; otherwise it leaves the mode and the fault report. It always answers a next state.
The codes and the whole-footprint check are the spec's decisions D17 and D22 (log entry 15). -/
def Obligations.InstructionsFaultExactlyWhenListed : Prop :=
  ∀ (i : Instr) (s : State), ∃ t, exec i s = .next t ∧
    (∀ k info, instrFault i s = some (k, info) → OnlyFaulted s t ∧ Reports t k (s.pc - 2#16) (encode i) info) ∧
    (instrFault i s = none → Part.mode.Same s t ∧ Part.report.Same s t)

/-- `display_changed` after a step (40_step_and_dispatch.md R127): 1 exactly when the step fetched `00E0` or `Dxyn` and did not fault. -/
def Obligations.DisplayChangedReportsDrawing : Prop :=
  ∀ (inp : StepInput) (s t : State), stepWith inp s = .next t →
    (t.displayChanged = true ↔
      s.Fetches inp.keys ∧ s.pc.toNat ≤ 0xFFE ∧ t.mode = .run ∧
        (decode s.wordAtPc = .ok .cls ∨ ∃ x y n, decode s.wordAtPc = .ok (.drw x y n))) ∧
    (t.toneActive = true ↔ t.st ≠ 0#8)

/-- An instruction that does not fault completes, writing only the general registers that the table of 10_state.md R22 lists
(`instrWrites`) and, of the other state, only what the spec gives it (`instrChanges`). -/
def Obligations.InstructionsKeepAllElse : Prop :=
  ∀ (i : Instr) (s : State), instrFault i s = none →
    ∃ t, exec i s = .next t ∧ KeptBut (instrWrites i s.cfg) (instrChanges i s.cfg) s t

/-- How each instruction that does not fault leaves `PC` (10_state.md R25), with `s.pc` equal to `a + 2`. -/
def Obligations.ProgramCounterAfterInstruction : Prop :=
  ∀ (i : Instr) (s : State), instrFault i s = none → ∃ t, exec i s = .next t ∧ t.pc.toNat = instrPc i s

/-- The straps are immutable: no step changes `CFG` (10_state.md R39). -/
def Obligations.StrapsNeverChange : Prop :=
  ∀ s t : State, step s = .next t → t.cfg = s.cfg

/-- Memory is changed by `Fx33` and `Fx55` alone, and only in their footprint (20_memory.md R61). -/
def Obligations.OnlyStoresChangeMemory : Prop :=
  ∀ (i : Instr) (s t : State) (a : Nat), exec i s = .next t → t.readByte a ≠ s.readByte a →
    (∃ x, i = .ldB x ∧ s.i.toNat ≤ a ∧ a ≤ s.i.toNat + 2) ∨
    (∃ x, i = .storeRegs x ∧ s.i.toNat ≤ a ∧ a ≤ s.i.toNat + x.toNat)

/-- Bytes stored are read back, every other byte stays, and the canonical form of memory is kept (20_memory.md R60, R66, R71).
The canonical form is the model's representation (log entry 8). -/
def Obligations.StoredBytesAreReadBack : Prop :=
  ∀ (s : State) (a : Nat) (bs : List Byte), a + bs.length ≤ 0x1000 →
    (∀ k, k < bs.length → (s.storeBytes a bs).readByte (a + k) = bs.getD k 0#8) ∧
    (∀ b, (b < a ∨ a + bs.length ≤ b) → (s.storeBytes a bs).readByte b = s.readByte b) ∧
    (s.mem.wf → (s.storeBytes a bs).mem.wf)

-- ==== Control transfer ====

/-- `1nnn` (41_control_flow.md R142). -/
def Obligations.JumpGoesToItsAddress : Prop :=
  ∀ (nnn : Addr12) (s : State),
    decode (wordNNN 0x1#4 nnn) = .ok (.jp nnn) ∧
    ∃ t, exec (.jp nnn) s = .next t ∧ t.pc.toNat = nnn.toNat ∧ KeptBut [] [.pc] s t

/-- `2nnn` (41_control_flow.md R143): pushes the advanced `PC` and jumps; with a full stack it raises `StackOverflow`.
The number of the code is the spec's decision D17 (log entry 15). -/
def Obligations.CallPushesAndJumps : Prop :=
  ∀ (nnn : Addr12) (s : State),
    decode (wordNNN 0x2#4 nnn) = .ok (.call nnn) ∧
    (s.sp.val < 16 → ∃ t, exec (.call nnn) s = .next t ∧ t.pc.toNat = nnn.toNat ∧ t.sp.val = s.sp.val + 1 ∧
      (∀ j, t.stack[j]? = if j = s.sp.val then some s.pc else s.stack[j]?) ∧ KeptBut [] [.pc, .stack] s t) ∧
    (s.sp.val = 16 → ∃ t, exec (.call nnn) s = .next t ∧ OnlyFaulted s t ∧
      Reports t .stackOverflow (s.pc - 2#16) (wordNNN 0x2#4 nnn) 0x0000#16)

/-- `00EE` (41_control_flow.md R141): pops into `PC`; with an empty stack it raises `StackUnderflow`.
The number of the code is the spec's decision D17 (log entry 15). -/
def Obligations.ReturnPopsIntoPc : Prop :=
  ∀ s : State,
    decode 0x00EE#16 = .ok .ret ∧
    (0 < s.sp.val → ∃ t, exec .ret s = .next t ∧ s.stack[s.sp.val - 1]? = some t.pc ∧ t.sp.val + 1 = s.sp.val ∧
      t.stack = s.stack ∧ KeptBut [] [.pc, .stack] s t) ∧
    (s.sp.val = 0 → ∃ t, exec .ret s = .next t ∧ OnlyFaulted s t ∧
      Reports t .stackUnderflow (s.pc - 2#16) 0x00EE#16 0x0000#16)

/-- `3xnn` and `4xnn` (41_control_flow.md R144, R145). -/
def Obligations.SkipsOnImmediate : Prop :=
  ∀ (x : RegIx) (nn : Byte) (s : State),
    decode (wordXNN 0x3#4 x nn) = .ok (.seImm x nn) ∧ decode (wordXNN 0x4#4 x nn) = .ok (.sneImm x nn) ∧
    (∃ t, exec (.seImm x nn) s = .next t ∧ t.pc = (if s.readV x = nn then s.pc + 2#16 else s.pc) ∧
      KeptBut [] [.pc] s t) ∧
    (∃ t, exec (.sneImm x nn) s = .next t ∧ t.pc = (if s.readV x ≠ nn then s.pc + 2#16 else s.pc) ∧
      KeptBut [] [.pc] s t)

/-- `5xy0` and `9xy0` (41_control_flow.md R146, R147); with another last nibble the word is illegal.
That another last nibble is illegal is the spec's decision D9 (log entry 15). -/
def Obligations.SkipsOnRegisters : Prop :=
  ∀ (x y : RegIx) (n : Nibble) (s : State),
    decode (wordXYN 0x5#4 x y 0#4) = .ok (.seReg x y) ∧ decode (wordXYN 0x9#4 x y 0#4) = .ok (.sneReg x y) ∧
    (n ≠ 0#4 → decode (wordXYN 0x5#4 x y n) = .error .family5 ∧ decode (wordXYN 0x9#4 x y n) = .error .family9) ∧
    (∃ t, exec (.seReg x y) s = .next t ∧ t.pc = (if s.readV x = s.readV y then s.pc + 2#16 else s.pc) ∧
      KeptBut [] [.pc] s t) ∧
    (∃ t, exec (.sneReg x y) s = .next t ∧ t.pc = (if s.readV x ≠ s.readV y then s.pc + 2#16 else s.pc) ∧
      KeptBut [] [.pc] s t)

/-- `Bnnn` (41_control_flow.md R148): the exact sum of `nnn` and `V0`, or `Vx` with `x = w[11:8]` by the strap.
The strap's other value and the unmasked sum are the spec's decisions D12 and D21 (log entry 15). -/
def Obligations.OffsetJumpAddsItsBase : Prop :=
  ∀ (nnn : Addr12) (s : State),
    decode (wordNNN 0xB#4 nnn) = .ok (.jpV0 nnn) ∧
    ∃ t, exec (.jpV0 nnn) s = .next t ∧
      t.pc.toNat = nnn.toNat +
        (if s.cfg.jumpUsesVx then s.readV (fieldX (wordNNN 0xB#4 nnn)) else s.readV 0x0#4).toNat ∧
      t.pc.toNat ≤ 0x10FE ∧ KeptBut [] [.pc] s t

-- ==== Loads, arithmetic, logic, shifts, random ====

/-- `6xnn` and `7xnn` (42_alu.md R161, R162): no flag, so `VF` changes only as the destination. -/
def Obligations.LoadsAndAddsImmediate : Prop :=
  ∀ (x : RegIx) (nn : Byte) (s : State),
    decode (wordXNN 0x6#4 x nn) = .ok (.ldImm x nn) ∧ decode (wordXNN 0x7#4 x nn) = .ok (.addImm x nn) ∧
    (∃ t, exec (.ldImm x nn) s = .next t ∧ t.readV x = nn ∧ KeptBut [x] [] s t) ∧
    (∃ t, exec (.addImm x nn) s = .next t ∧ (t.readV x).toNat = ((s.readV x).toNat + nn.toNat) % 256 ∧
      KeptBut [x] [] s t)

/-- `8xy0` (42_alu.md R163), whatever the straps. -/
def Obligations.CopiesRegister : Prop :=
  ∀ (x y : RegIx) (s : State),
    decode (wordXYN 0x8#4 x y 0x0#4) = .ok (.ldReg x y) ∧
    ∃ t, exec (.ldReg x y) s = .next t ∧ t.readV x = s.readV y ∧ KeptBut [x] [] s t

/-- `8xy1`, `8xy2`, `8xy3` (42_alu.md R164 to R166): the old registers are the operands, and `VF <- 0` comes last when
`cfg_vf_reset_on_logic` is 1.
That VF is cleared last is the spec's decision D13 (log entry 15). -/
def Obligations.LogicOnRegisters : Prop :=
  ∀ (x y : RegIx) (s : State),
    decode (wordXYN 0x8#4 x y 0x1#4) = .ok (.orReg x y) ∧ decode (wordXYN 0x8#4 x y 0x2#4) = .ok (.andReg x y) ∧
    decode (wordXYN 0x8#4 x y 0x3#4) = .ok (.xorReg x y) ∧
    ∀ i v, (i, v) ∈ [(Instr.orReg x y, s.readV x ||| s.readV y), (Instr.andReg x y, s.readV x &&& s.readV y),
        (Instr.xorReg x y, s.readV x ^^^ s.readV y)] →
      ∃ t, exec i s = .next t ∧ KeptBut [x, regF] [] s t ∧
        (s.cfg.vfResetOnLogic = true → t.readV regF = 0#8 ∧ (x ≠ regF → t.readV x = v)) ∧
        (s.cfg.vfResetOnLogic = false → t.readV x = v ∧ (x ≠ regF → t.readV regF = s.readV regF))

/-- `8xy4` (42_alu.md R167): the sum modulo 256, then `VF` the carry, whichever registers are named.
That the flag wins where `x` is 0xF is the spec's decision D13 (log entry 15). -/
def Obligations.AddsWithCarryOut : Prop :=
  ∀ (x y : RegIx) (s : State),
    decode (wordXYN 0x8#4 x y 0x4#4) = .ok (.addReg x y) ∧
    ∃ t, exec (.addReg x y) s = .next t ∧ KeptBut [x, regF] [] s t ∧
      (x ≠ regF → (t.readV x).toNat = ((s.readV x).toNat + (s.readV y).toNat) % 256) ∧
      t.readV regF = if 255 < (s.readV x).toNat + (s.readV y).toNat then 1#8 else 0#8

/-- `8xy5` and `8xy7` (42_alu.md R168, R170): the difference modulo 256, then `VF` the not-borrow flag.
That the flag wins where `x` is 0xF is the spec's decision D13 (log entry 15). -/
def Obligations.SubtractsWithNotBorrow : Prop :=
  ∀ (x y : RegIx) (s : State),
    decode (wordXYN 0x8#4 x y 0x5#4) = .ok (.subReg x y) ∧ decode (wordXYN 0x8#4 x y 0x7#4) = .ok (.subnReg x y) ∧
    (∃ t, exec (.subReg x y) s = .next t ∧ KeptBut [x, regF] [] s t ∧
      (x ≠ regF → (t.readV x).toNat = ((s.readV x).toNat + 256 - (s.readV y).toNat) % 256) ∧
      t.readV regF = if (s.readV y).toNat ≤ (s.readV x).toNat then 1#8 else 0#8) ∧
    (∃ t, exec (.subnReg x y) s = .next t ∧ KeptBut [x, regF] [] s t ∧
      (x ≠ regF → (t.readV x).toNat = ((s.readV y).toNat + 256 - (s.readV x).toNat) % 256) ∧
      t.readV regF = if (s.readV x).toNat ≤ (s.readV y).toNat then 1#8 else 0#8)

/-- `8xy6` and `8xyE` (42_alu.md R169, R171): `Vx` or `Vy` by the strap, shifted by one into `Vx`, then `VF` the bit shifted
out.
That the operand is selectable is the spec's decision D11 (log entry 15). -/
def Obligations.ShiftsByOne : Prop :=
  ∀ (x y : RegIx) (s : State),
    let v := if s.cfg.shiftUsesVy then s.readV y else s.readV x
    decode (wordXYN 0x8#4 x y 0x6#4) = .ok (.shr x y) ∧ decode (wordXYN 0x8#4 x y 0xE#4) = .ok (.shl x y) ∧
    (∃ t, exec (.shr x y) s = .next t ∧ KeptBut [x, regF] [] s t ∧
      (x ≠ regF → (t.readV x).toNat = v.toNat / 2) ∧ (t.readV regF).toNat = v.toNat % 2) ∧
    (∃ t, exec (.shl x y) s = .next t ∧ KeptBut [x, regF] [] s t ∧
      (x ≠ regF → (t.readV x).toNat = v.toNat * 2 % 256) ∧ (t.readV regF).toNat = v.toNat / 128)

/-- `Cxnn` (42_alu.md R172): the step's `rnd` AND `nn`, for every value of `rnd`; bits that are 0 in `nn` are 0 in the result.
That the byte is an input with no law is the spec's decision D16 (log entries 2 and 15). -/
def Obligations.RandomByteIsMasked : Prop :=
  ∀ (x : RegIx) (nn : Byte) (inp : StepInput) (s : State),
    decode (wordXNN 0xC#4 x nn) = .ok (.rnd x nn) ∧ (s.beforeFetch inp).rnd = inp.rnd ∧
    ∃ t, exec (.rnd x nn) s = .next t ∧ t.readV x = s.rnd &&& nn ∧
      (∀ k, nn.getLsbD k = false → (t.readV x).getLsbD k = false) ∧ KeptBut [x] [] s t

-- ==== Display ====

/-- `00E0` (43_display.md R181): every pixel off, `VF` untouched, `display_changed` 1. -/
def Obligations.ClearTurnsEveryPixelOff : Prop :=
  ∀ s : State,
    decode 0x00E0#16 = .ok .cls ∧
    ∃ t, exec .cls s = .next t ∧ (∀ r c, r < 32 → c < 64 → t.fb.pixel r c = false) ∧ t.displayChanged = true ∧
      KeptBut [] [.frame, .changed] s t

/-- `Dxyn` (43_display.md R182, R183): the sprite is XORed pixel by pixel from the start column `Vx mod 64` and row `Vy mod 32`, clipped
at the edges; `VF` is 1 exactly when a lit pixel went off, else 0; a footprint beyond 0xFFF only faults.
The number of the code is the spec's decision D17 (log entry 15). -/
def Obligations.DrawXorsTheSprite : Prop :=
  ∀ (x y : RegIx) (n : Nibble) (s : State),
    let bit := spriteBit ((s.readV x).toNat % 64) ((s.readV y).toNat % 32) (s.readBytes s.i.toNat n.toNat)
    decode (wordXYN 0xD#4 x y n) = .ok (.drw x y n) ∧
    ((n = 0#4 ∨ s.i.toNat + n.toNat - 1 ≤ 0xFFF) → ∃ t, exec (.drw x y n) s = .next t ∧
      (∀ r c, r < 32 → c < 64 → t.fb.pixel r c = (s.fb.pixel r c ^^ bit r c)) ∧
      ((∃ r c, r < 32 ∧ c < 64 ∧ bit r c = true ∧ s.fb.pixel r c = true) → t.readV regF = 1#8) ∧
      ((∀ r c, r < 32 → c < 64 → bit r c = true → s.fb.pixel r c = false) → t.readV regF = 0#8) ∧
      t.displayChanged = true ∧ KeptBut [regF] [.frame, .changed] s t) ∧
    (n ≠ 0#4 → 0xFFF < s.i.toNat + n.toNat - 1 → ∃ t, exec (.drw x y n) s = .next t ∧ OnlyFaulted s t ∧
      Reports t .memRange (s.pc - 2#16) (wordXYN 0xD#4 x y n) (BitVec.ofNat 16 (max s.i.toNat 0x1000)))

/-- The draw property (43_display.md R185): drawing the same sprite at the same place twice restores the display, and `VF` after the
second draw is 1 exactly when the first turned a pixel on. Between the draws nothing else runs, and the first draw left the
coordinates as they were (it may change them only where `x` or `y` is `0xF`). -/
def Obligations.DrawingTwiceRestoresTheDisplay : Prop :=
  ∀ (x y : RegIx) (n : Nibble) (s t : State), s.mode = .run → exec (.drw x y n) s = .next t → t.mode = .run →
    t.readV x = s.readV x → t.readV y = s.readV y →
    ∃ u, exec (.drw x y n) t = .next u ∧ u.fb = s.fb ∧
      (u.readV regF = 1#8 ↔ ∃ r c, r < 32 ∧ c < 64 ∧ s.fb.pixel r c = false ∧ t.fb.pixel r c = true)

-- ==== Keys and timers ====

/-- `Ex9E` and `ExA1` (44_keys_timers.md R190, R191): the whole byte `Vx` is the key code, and a code above 0x0F is not pressed; `keys` is
the step's one sample.
That the whole byte is the key code is the spec's decision D18 (log entry 15). -/
def Obligations.SkipsOnKey : Prop :=
  ∀ (x : RegIx) (inp : StepInput) (s : State),
    decode (wordXNN 0xE#4 x 0x9E#8) = .ok (.skp x) ∧ decode (wordXNN 0xE#4 x 0xA1#8) = .ok (.sknp x) ∧
    (s.beforeFetch inp).keys = inp.keys ∧
    (∃ t, exec (.skp x) s = .next t ∧ KeptBut [] [.pc] s t ∧
      t.pc = if (s.readV x).toNat ≤ 0x0F ∧ s.keys.getLsbD (s.readV x).toNat = true then s.pc + 2#16 else s.pc) ∧
    (∃ t, exec (.sknp x) s = .next t ∧ KeptBut [] [.pc] s t ∧
      t.pc = if (s.readV x).toNat ≤ 0x0F ∧ s.keys.getLsbD (s.readV x).toNat = true then s.pc else s.pc + 2#16)

/-- `Fx07` and `Fx0A` (44_keys_timers.md): `Vx` takes the delay timer; the key wait only sets the latch, whatever the keys. -/
def Obligations.ReadsDelayAndSetsKeyWait : Prop :=
  ∀ (x : RegIx) (s : State),
    decode (wordXNN 0xF#4 x 0x07#8) = .ok (.ldVxDT x) ∧ decode (wordXNN 0xF#4 x 0x0A#8) = .ok (.ldVxK x) ∧
    (∃ t, exec (.ldVxDT x) s = .next t ∧ t.readV x = s.dt ∧ KeptBut [x] [] s t) ∧
    (∃ t, exec (.ldVxK x) s = .next t ∧ t.waitValid = true ∧ t.waitReg = x ∧ KeptBut [] [.wait] s t)

/-- `Fx15` and `Fx18` (44_keys_timers.md R194, R195): the timer takes `Vx`, the divider is not restarted, and after `Fx18` the tone is on
exactly when `Vx` is not 0. -/
def Obligations.SetsTimers : Prop :=
  ∀ (x : RegIx) (s : State),
    decode (wordXNN 0xF#4 x 0x15#8) = .ok (.ldDTVx x) ∧ decode (wordXNN 0xF#4 x 0x18#8) = .ok (.ldSTVx x) ∧
    (∃ t, exec (.ldDTVx x) s = .next t ∧ t.dt = s.readV x ∧ KeptBut [] [.delay] s t) ∧
    (∃ t, exec (.ldSTVx x) s = .next t ∧ t.st = s.readV x ∧ (t.toneActive = true ↔ s.readV x ≠ 0#8) ∧
      KeptBut [] [.sound] s t)

/-- No instruction reads `ST` (44_keys_timers.md R195): with another value in it, every instruction does the same, and the value
stays but for `Fx18`, which overwrites it. -/
def Obligations.NoInstructionReadsSoundTimer : Prop :=
  ∀ (i : Instr) (s t : State) (b : Byte), exec i s = .next t →
    ((∀ x, i ≠ .ldSTVx x) → exec i (s.setST b) = .next (t.setST b)) ∧
    (∀ x, i = .ldSTVx x → exec i (s.setST b) = .next t)

-- ==== Index register and memory ====

/-- `Annn`, `Fx1E`, `Fx29` (45_index_memory.md R200 to R202): no flag, no fault, `I` wraps at 2^16.
The wrap and the unmasked digit are the spec's decisions D20 and D19 (log entry 15). -/
def Obligations.LoadsIndexRegister : Prop :=
  ∀ (nnn : Addr12) (x : RegIx) (s : State),
    decode (wordNNN 0xA#4 nnn) = .ok (.ldI nnn) ∧ decode (wordXNN 0xF#4 x 0x1E#8) = .ok (.addI x) ∧
    decode (wordXNN 0xF#4 x 0x29#8) = .ok (.ldF x) ∧
    (∃ t, exec (.ldI nnn) s = .next t ∧ t.i.toNat = nnn.toNat ∧ KeptBut [] [.index] s t) ∧
    (∃ t, exec (.addI x) s = .next t ∧ t.i.toNat = (s.i.toNat + (s.readV x).toNat) % 65536 ∧
      KeptBut [] [.index] s t) ∧
    (∃ t, exec (.ldF x) s = .next t ∧ t.i.toNat = 5 * (s.readV x).toNat ∧ KeptBut [] [.index] s t)

/-- `Fx33` (45_index_memory.md R203): the decimal digits at `I`, `I + 1`, `I + 2`, every other byte as before; beyond 0xFFD it only
faults.
The number of the code is the spec's decision D17 (log entry 15). -/
def Obligations.StoresDecimalDigits : Prop :=
  ∀ (x : RegIx) (s : State),
    decode (wordXNN 0xF#4 x 0x33#8) = .ok (.ldB x) ∧
    (s.i.toNat + 2 ≤ 0xFFF → ∃ t, exec (.ldB x) s = .next t ∧
      (t.readByte s.i.toNat).toNat = (s.readV x).toNat / 100 ∧
      (t.readByte (s.i.toNat + 1)).toNat = (s.readV x).toNat / 10 % 10 ∧
      (t.readByte (s.i.toNat + 2)).toNat = (s.readV x).toNat % 10 ∧
      (∀ a, (a < s.i.toNat ∨ s.i.toNat + 2 < a) → t.readByte a = s.readByte a) ∧ KeptBut [] [.memory] s t) ∧
    (0xFFF < s.i.toNat + 2 → ∃ t, exec (.ldB x) s = .next t ∧ OnlyFaulted s t ∧
      Reports t .memRange (s.pc - 2#16) (wordXNN 0xF#4 x 0x33#8) (BitVec.ofNat 16 (max s.i.toNat 0x1000)))

/-- `Fx55` (45_index_memory.md R204): `V0` to `Vx` at `I` up, every other byte as before, `I` advanced by the strap; beyond 0xFFF it
only faults.
The number of the code is the spec's decision D17 (log entry 15). -/
def Obligations.StoresRegisterBlock : Prop :=
  ∀ (x : RegIx) (s : State),
    decode (wordXNN 0xF#4 x 0x55#8) = .ok (.storeRegs x) ∧
    (s.i.toNat + x.toNat ≤ 0xFFF → ∃ t, exec (.storeRegs x) s = .next t ∧
      (∀ r : RegIx, r.toNat ≤ x.toNat → t.readByte (s.i.toNat + r.toNat) = s.readV r) ∧
      (∀ a, (a < s.i.toNat ∨ s.i.toNat + x.toNat < a) → t.readByte a = s.readByte a) ∧
      t.i.toNat = (if s.cfg.incrementIndexOnStoreLoad then (s.i.toNat + x.toNat + 1) % 65536 else s.i.toNat) ∧
      KeptBut [] [.memory, .index] s t) ∧
    (0xFFF < s.i.toNat + x.toNat → ∃ t, exec (.storeRegs x) s = .next t ∧ OnlyFaulted s t ∧
      Reports t .memRange (s.pc - 2#16) (wordXNN 0xF#4 x 0x55#8) (BitVec.ofNat 16 (max s.i.toNat 0x1000)))

/-- `Fx65` (45_index_memory.md R205): `V0` to `Vx` from `I` up, the registers above `x` untouched, `I` advanced by the strap; beyond
0xFFF it only faults.
The number of the code is the spec's decision D17 (log entry 15). -/
def Obligations.LoadsRegisterBlock : Prop :=
  ∀ (x : RegIx) (s : State),
    decode (wordXNN 0xF#4 x 0x65#8) = .ok (.loadRegs x) ∧
    (s.i.toNat + x.toNat ≤ 0xFFF → ∃ t, exec (.loadRegs x) s = .next t ∧
      (∀ r : RegIx, r.toNat ≤ x.toNat → t.readV r = s.readByte (s.i.toNat + r.toNat)) ∧
      (∀ r : RegIx, x.toNat < r.toNat → t.readV r = s.readV r) ∧
      t.i.toNat = (if s.cfg.incrementIndexOnStoreLoad then (s.i.toNat + x.toNat + 1) % 65536 else s.i.toNat) ∧
      (∀ p, p ≠ Part.index → p.Same s t)) ∧
    (0xFFF < s.i.toNat + x.toNat → ∃ t, exec (.loadRegs x) s = .next t ∧ OnlyFaulted s t ∧
      Reports t .memRange (s.pc - 2#16) (wordXNN 0xF#4 x 0x65#8) (BitVec.ofNat 16 (max s.i.toNat 0x1000)))

/-- The round-trip property (45_index_memory.md R206): `V0` to `Vx` stored and then loaded from the same base, with the memory of the
store, come back exactly, whatever the straps and whatever else changed in between. -/
def Obligations.StoreThenLoadGivesRegistersBack : Prop :=
  ∀ (x : RegIx) (s : State), s.i.toNat + x.toNat ≤ 0xFFF →
    ∃ t, exec (.storeRegs x) s = .next t ∧
      ∀ u : State, u.mem = t.mem → u.i = s.i →
        ∃ v, exec (.loadRegs x) u = .next v ∧ ∀ r : RegIx, r.toNat ≤ x.toNat → v.readV r = s.readV r

/-- Self-modifying code (20_memory.md R74): the next fetch reads what `Fx55` or `Fx33` has just stored, wherever the stored bytes
and the two bytes at `PC` overlap, the byte at `PC` high (R67, R69); where they do not overlap it reads the bytes as before. -/
def Obligations.NextFetchSeesStoredCode : Prop :=
  ∀ (x : RegIx) (s : State), s.pc.toNat ≤ 0xFFE →
    (s.i.toNat + x.toNat ≤ 0xFFF →
      let now := fun a => if s.i.toNat ≤ a ∧ a ≤ s.i.toNat + x.toNat then s.readV (BitVec.ofNat 4 (a - s.i.toNat)) else s.readByte a
      ∃ t, exec (.storeRegs x) s = .next t ∧ t.fetch = some (wordOfBytes (now s.pc.toNat) (now (s.pc.toNat + 1)))) ∧
    (s.i.toNat + 2 ≤ 0xFFF →
      let v := (s.readV x).toNat
      let now := fun a =>
        if a = s.i.toNat then BitVec.ofNat 8 (v / 100)
        else if a = s.i.toNat + 1 then BitVec.ofNat 8 (v / 10 % 10)
        else if a = s.i.toNat + 2 then BitVec.ofNat 8 (v % 10)
        else s.readByte a
      ∃ t, exec (.ldB x) s = .next t ∧ t.fetch = some (wordOfBytes (now s.pc.toNat) (now (s.pc.toNat + 1))))

-- ==== The display's read port, and the end of a run ====

/-- The host's read port of the display (00_scope.md R5, 10_state.md R34): address `row * 64 + col` reads `FB[row][col]`, every
address is one of these, and only `00E0` and `Dxyn` change what the port reads. The map is the spec's decision D24 (log entry 15). -/
def Obligations.ReadPortShowsEveryPixel : Prop :=
  (∀ (s : State) (addr : BitVec 11) (r c : Nat), r < 32 → c < 64 → addr.toNat = r * 64 + c →
    s.frameRead addr = s.fb.pixel r c) ∧
  (∀ addr : BitVec 11, ∃ r c, r < 32 ∧ c < 64 ∧ addr.toNat = r * 64 + c) ∧
  ∀ (i : Instr) (s t : State) (addr : BitVec 11), exec i s = .next t → t.frameRead addr ≠ s.frameRead addr →
    i = .cls ∨ ∃ x y n, i = .drw x y n

/-- What the end-of-run predicate says (40_step_and_dispatch.md R131): end (a) is `mode = HALT`, end (c) a jump to itself at `PC`,
and a run that ended by decode error at a chosen address is one of the first kind. The predicate is the model's choice, as R131
asks (log entry 22). -/
def Obligations.EndOfRunIsHaltOrSelfJump : Prop :=
  ∀ s : State,
    (s.runEnd = some .faulted ↔ s.mode = .halt) ∧
    (s.runEnd = some .selfJump ↔ s.mode = .run ∧ s.waitValid = false ∧ s.pc.toNat ≤ 0xFFE ∧
      ∃ nnn, decode s.wordAtPc = .ok (.jp nnn) ∧ nnn.toNat = s.pc.toNat) ∧
    ∀ a, s.endedByDecodeErrorAt a = true ↔ s.mode = .halt ∧ s.faultCode = 1#3 ∧ s.faultAddr = a

/-- A run that has ended stays ended, whatever the host presents and however many steps it asks for (40_step_and_dispatch.md R121,
R131, 60_exceptions.md R219, R220): after a fault only `div` and the result change, and only `rst` leads out; at a jump to itself
only the timers, `div`, the result and the samples change. The predicate is the model's choice (log entry 22). -/
def Obligations.EndedRunStaysEnded : Prop :=
  ∀ (k : Nat) (s : State) (e : RunEnd), s.runEnd = some e →
    ∃ t, Sys2Proof.core.run k s = .next t ∧ t.runEnd = some e ∧
      KeptBut [] [.delay, .sound, .divider, .changed, .samples, .host] s t ∧
      (e = .faulted → KeptBut [] [.divider, .changed, .host] s t)
end

