-- ==== Sys2Proof/Laws/Decode.lean ====
section
/-!
SUPPORT. The fields of a word in each format (30_encoding.md R91, R92), and a word as its fields.
-/

namespace Sys2Proof

theorem getLsbD_wordNNN (op : Nibble) (nnn : Addr12) (k : Nat) :
    (wordNNN op nnn).getLsbD k = if k < 12 then nnn.getLsbD k else op.getLsbD (k - 12) :=
  BitVec.getLsbD_append

theorem getLsbD_wordXNN (op : Nibble) (x : RegIx) (nn : Byte) (k : Nat) :
    (wordXNN op x nn).getLsbD k =
      if k < 8 then nn.getLsbD k else if k < 12 then x.getLsbD (k - 8) else op.getLsbD (k - 12) := by
  simp only [wordXNN, BitVec.getLsbD_append]
  by_cases h : k < 8
  · simp [h]
  · have e : k - 8 < 4 ↔ k < 12 := by omega
    have e2 : k - 8 - 4 = k - 12 := by omega
    simp [h, e, e2]

theorem getLsbD_wordXYN (op : Nibble) (x y : RegIx) (n : Nibble) (k : Nat) :
    (wordXYN op x y n).getLsbD k =
      if k < 4 then n.getLsbD k else if k < 8 then y.getLsbD (k - 4)
      else if k < 12 then x.getLsbD (k - 8) else op.getLsbD (k - 12) := by
  simp only [wordXYN, BitVec.getLsbD_append]
  by_cases h : k < 4
  · simp [h]
  · have e : k - 4 < 4 ↔ k < 8 := by omega
    have e2 : k - 4 - 4 = k - 8 := by omega
    have e3 : k - 8 < 4 ↔ k < 12 := by omega
    have e4 : k - 8 - 4 = k - 12 := by omega
    simp [h, e, e2, e3, e4]

/-- A field of four bits is known by its bits. -/
theorem extract4_eq {w : Word} {lo : Nat} {v : Nibble} (h : ∀ k, k < 4 → w.getLsbD (lo + k) = v.getLsbD k) :
    w.extractLsb' lo 4 = v := by
  apply BitVec.eq_of_getLsbD_eq
  intro k hk
  simp [hk, h k hk]

@[simp] theorem fieldOp_wordNNN (op : Nibble) (nnn : Addr12) : fieldOp (wordNNN op nnn) = op :=
  extract4_eq fun k _ => by simp [getLsbD_wordNNN]

@[simp] theorem fieldNNN_wordNNN (op : Nibble) (nnn : Addr12) : fieldNNN (wordNNN op nnn) = nnn := by
  apply BitVec.eq_of_getLsbD_eq
  intro k hk
  simp [fieldNNN, getLsbD_wordNNN, hk]

@[simp] theorem fieldOp_wordXNN (op : Nibble) (x : RegIx) (nn : Byte) : fieldOp (wordXNN op x nn) = op :=
  extract4_eq fun k _ => by
    have : ¬ 12 + k < 8 := by omega
    simp [getLsbD_wordXNN, this]

@[simp] theorem fieldX_wordXNN (op : Nibble) (x : RegIx) (nn : Byte) : fieldX (wordXNN op x nn) = x :=
  extract4_eq fun k hk => by
    have : 8 + k < 12 := by omega
    simp [getLsbD_wordXNN, this]

@[simp] theorem fieldNN_wordXNN (op : Nibble) (x : RegIx) (nn : Byte) : fieldNN (wordXNN op x nn) = nn := by
  apply BitVec.eq_of_getLsbD_eq
  intro k hk
  simp [fieldNN, getLsbD_wordXNN, hk]

@[simp] theorem fieldOp_wordXYN (op : Nibble) (x y : RegIx) (n : Nibble) : fieldOp (wordXYN op x y n) = op :=
  extract4_eq fun k _ => by
    have h1 : ¬ 12 + k < 4 := by omega
    have h2 : ¬ 12 + k < 8 := by omega
    simp [getLsbD_wordXYN, h1, h2]

@[simp] theorem fieldX_wordXYN (op : Nibble) (x y : RegIx) (n : Nibble) : fieldX (wordXYN op x y n) = x :=
  extract4_eq fun k hk => by
    have h1 : ¬ 8 + k < 4 := by omega
    have h2 : 8 + k < 12 := by omega
    simp [getLsbD_wordXYN, h1, h2]

@[simp] theorem fieldY_wordXYN (op : Nibble) (x y : RegIx) (n : Nibble) : fieldY (wordXYN op x y n) = y :=
  extract4_eq fun k hk => by
    have h2 : 4 + k < 8 := by omega
    simp [getLsbD_wordXYN, h2]

@[simp] theorem fieldN_wordXYN (op : Nibble) (x y : RegIx) (n : Nibble) : fieldN (wordXYN op x y n) = n :=
  extract4_eq fun k hk => by simp [getLsbD_wordXYN, hk]

/-- A word is `op ++ nnn` (30_encoding.md R91). -/
theorem word_eq_NNN (w : Word) : w = wordNNN (fieldOp w) (fieldNNN w) := by
  apply BitVec.eq_of_getLsbD_eq
  intro k hk
  rw [getLsbD_wordNNN]
  by_cases h : k < 12
  · simp [h, fieldNNN]
  · have e : 12 + (k - 12) = k := by omega
    have l : k - 12 < 4 := by omega
    simp [h, fieldOp, e, l]

/-- A word is `op ++ x ++ nn` (30_encoding.md R91). -/
theorem word_eq_XNN (w : Word) : w = wordXNN (fieldOp w) (fieldX w) (fieldNN w) := by
  apply BitVec.eq_of_getLsbD_eq
  intro k hk
  rw [getLsbD_wordXNN]
  by_cases h : k < 8
  · simp [h, fieldNN]
  · by_cases h2 : k < 12
    · have e : 8 + (k - 8) = k := by omega
      have l : k - 8 < 4 := by omega
      simp [h, h2, fieldX, e, l]
    · have e : 12 + (k - 12) = k := by omega
      have l : k - 12 < 4 := by omega
      simp [h, h2, fieldOp, e, l]

/-- A word is `op ++ x ++ y ++ n` (30_encoding.md R91). -/
theorem word_eq_XYN (w : Word) : w = wordXYN (fieldOp w) (fieldX w) (fieldY w) (fieldN w) := by
  apply BitVec.eq_of_getLsbD_eq
  intro k hk
  rw [getLsbD_wordXYN]
  by_cases h : k < 4
  · simp [h, fieldN]
  · by_cases h1 : k < 8
    · have e : 4 + (k - 4) = k := by omega
      have l : k - 4 < 4 := by omega
      simp [h, h1, fieldY, e, l]
    · by_cases h2 : k < 12
      · have e : 8 + (k - 8) = k := by omega
        have l : k - 8 < 4 := by omega
        simp [h, h1, h2, fieldX, e, l]
      · have e : 12 + (k - 12) = k := by omega
        have l : k - 12 < 4 := by omega
        simp [h, h1, h2, fieldOp, e, l]

/-- The rows of format `NNN` fix `op` alone. -/
theorem wordNNN_and (op : Nibble) (nnn : Addr12) : wordNNN op nnn &&& 0xF000#16 = wordNNN op 0#12 := by
  apply BitVec.eq_of_getLsbD_eq
  intro k hk
  rw [BitVec.getLsbD_and, getLsbD_wordNNN, getLsbD_wordNNN]
  interval_cases k <;> simp

/-- The rows of format `XNN` fix `op` alone. -/
theorem wordXNN_and (op : Nibble) (x : RegIx) (nn : Byte) : wordXNN op x nn &&& 0xF000#16 = wordXNN op 0#4 0#8 := by
  apply BitVec.eq_of_getLsbD_eq
  intro k hk
  rw [BitVec.getLsbD_and, getLsbD_wordXNN, getLsbD_wordXNN]
  interval_cases k <;> simp

/-- The rows of format `X` fix `op` and `nn`. -/
theorem wordX_and (op : Nibble) (x : RegIx) (nn : Byte) : wordXNN op x nn &&& 0xF0FF#16 = wordXNN op 0#4 nn := by
  apply BitVec.eq_of_getLsbD_eq
  intro k hk
  rw [BitVec.getLsbD_and, getLsbD_wordXNN, getLsbD_wordXNN]
  interval_cases k <;> simp

/-- The rows of format `XY` fix `op` and `n`. -/
theorem wordXY_and (op : Nibble) (x y : RegIx) (n : Nibble) :
    wordXYN op x y n &&& 0xF00F#16 = wordXYN op 0#4 0#4 n := by
  apply BitVec.eq_of_getLsbD_eq
  intro k hk
  rw [BitVec.getLsbD_and, getLsbD_wordXYN, getLsbD_wordXYN]
  interval_cases k <;> simp

/-- The row of format `XYN` fixes `op` alone. -/
theorem wordXYN_and (op : Nibble) (x y : RegIx) (n : Nibble) :
    wordXYN op x y n &&& 0xF000#16 = wordXYN op 0#4 0#4 0#4 := by
  apply BitVec.eq_of_getLsbD_eq
  intro k hk
  rw [BitVec.getLsbD_and, getLsbD_wordXYN, getLsbD_wordXYN]
  interval_cases k <;> simp

/-- The two bytes of a word, high byte first, make the word (20_memory.md R67). -/
theorem wordOfBytes_bytes (w : Word) : wordOfBytes (highByte w) (lowByte w) = w := by
  apply BitVec.eq_of_getLsbD_eq
  intro k hk
  simp only [wordOfBytes, highByte, lowByte, BitVec.getLsbD_append, BitVec.getLsbD_extractLsb']
  by_cases h : k < 8
  · simp [h]
  · have e : 8 + (k - 8) = k := by omega
    have l : k - 8 < 8 := by omega
    simp [h, e, l]

end Sys2Proof
end

