-- ==== Sys2Proof/Laws/Display.lean ====
section
/-!
SUPPORT. The sprite draw pixel by pixel (43_display.md R182): each on-screen pixel under a set sprite bit is toggled once, and
`coll` says whether one of them was on.
-/

namespace Sys2Proof.Machine

theorem Frame.pixel_off_screen (f : Frame) {r c : Nat} (h : ¬ (r < 32 ∧ c < 64)) : f.pixel r c = false := by
  unfold Frame.pixel
  by_cases hc : c < 64
  · have hr : ¬ r < 32 := fun hr => h ⟨hr, hc⟩
    simp [Frame.row, hr]
  · exact BitVec.getLsbD_of_ge _ _ (by omega)

@[simp] theorem Frame.pixel_blank (r c : Nat) : Frame.blank.pixel r c = false := by
  unfold Frame.pixel Frame.row Frame.blank
  by_cases h : r < 32 <;> simp [h]

/-- Two display buffers with the same pixels are equal. -/
theorem Frame.ext_pixel {f g : Frame} (h : ∀ r c, r < 32 → c < 64 → f.pixel r c = g.pixel r c) : f = g := by
  apply Vector.ext
  intro r hr
  apply BitVec.eq_of_getLsbD_eq
  intro c hc
  have := h r c hr hc
  simpa [Frame.pixel, Frame.row, hr] using this

theorem Frame.row_toggle (f : Frame) {r : Nat} (c : Nat) (hr : r < 32) (r' : Nat) :
    (f.toggle r c).row r' = if r' = r then f.row r ^^^ (1#64 <<< c) else f.row r' := by
  unfold Frame.toggle
  by_cases e : r' = r
  · subst e; simp [Frame.row, hr]
  · have : ¬ r = r' := fun h => e h.symm
    simp [Frame.row, e, this]

theorem getLsbD_one_shift {c c' : Nat} (hc' : c' < 64) : (1#64 <<< c).getLsbD c' = decide (c' = c) := by
  rw [BitVec.getLsbD_shiftLeft, BitVec.getLsbD_one]
  by_cases l : c' < c
  · have : c' ≠ c := by omega
    simp [l, this]
  · by_cases e : c' = c
    · subst e; simp [hc']
    · simp [e]; omega

theorem Frame.pixel_toggle (f : Frame) {r c : Nat} (hr : r < 32) (hc : c < 64) (r' c' : Nat) :
    (f.toggle r c).pixel r' c' = (f.pixel r' c' ^^ decide (r' = r ∧ c' = c)) := by
  by_cases hs : r' < 32 ∧ c' < 64
  · unfold Frame.pixel
    rw [Frame.row_toggle f c hr]
    by_cases e : r' = r
    · subst e
      rw [if_pos rfl, BitVec.getLsbD_xor, getLsbD_one_shift hs.2]; simp
    · simp [e]
  · have hn : ¬ (r' = r ∧ c' = c) := by rintro ⟨rfl, rfl⟩; exact hs ⟨hr, hc⟩
    rw [Frame.pixel_off_screen _ hs, Frame.pixel_off_screen _ hs, decide_eq_false hn]; rfl

/-- The first `k` bits of a sprite row on row `row`. -/
theorem drawBits_spec (b : Byte) {row : Nat} (x0 : Nat) (hrow : row < 32) (d : Drawing) (k : Nat) :
    (∀ r c, ((List.range k).foldl (drawBit b row x0) d).1.pixel r c =
      (d.1.pixel r c ^^ decide (r = row ∧ x0 ≤ c ∧ c < x0 + k ∧ c < 64 ∧ b.getLsbD (7 - (c - x0)) = true))) ∧
    (((List.range k).foldl (drawBit b row x0) d).2 = true ↔
      d.2 = true ∨ ∃ c, x0 ≤ c ∧ c < x0 + k ∧ c < 64 ∧ b.getLsbD (7 - (c - x0)) = true ∧ d.1.pixel row c = true) := by
  induction k with
  | zero =>
    refine ⟨fun r c => ?_, ?_⟩
    · have : ¬ (r = row ∧ x0 ≤ c ∧ c < x0 + 0 ∧ c < 64 ∧ b.getLsbD (7 - (c - x0)) = true) := by
        rintro ⟨_, h1, h2, _⟩; omega
      rw [decide_eq_false this, Bool.xor_false]; rfl
    · constructor
      · intro h; exact .inl h
      · rintro (h | ⟨c, h1, h2, _⟩)
        · exact h
        · omega
  | succ k ih =>
    obtain ⟨ihp, ihc⟩ := ih
    rw [List.range_succ, List.foldl_append, List.foldl_cons, List.foldl_nil]
    generalize (List.range k).foldl (drawBit b row x0) d = e at ihp ihc
    have back : x0 + k - x0 = k := by omega
    by_cases clip : 64 ≤ x0 + k
    · have he : drawBit b row x0 e k = e := by simp [drawBit, clip]
      rw [he]
      refine ⟨fun r c => ?_, ?_⟩
      · rw [ihp]; congr 2; apply propext; constructor
        · rintro ⟨h1, h2, h3, h4⟩; exact ⟨h1, h2, by omega, h4⟩
        · rintro ⟨h1, h2, h3, h4, h5⟩; exact ⟨h1, h2, by omega, h4, h5⟩
      · rw [ihc]; apply or_congr Iff.rfl; constructor
        · rintro ⟨c, h1, h2, h3⟩; exact ⟨c, h1, by omega, h3⟩
        · rintro ⟨c, h1, h2, h3, h4⟩; exact ⟨c, h1, by omega, h3, h4⟩
    · by_cases bit : b.getLsbD (7 - k) = true
      · have he : drawBit b row x0 e k = (e.1.toggle row (x0 + k), e.2 || e.1.pixel row (x0 + k)) := by
          simp [drawBit, clip, bit]
        have hpix : e.1.pixel row (x0 + k) = d.1.pixel row (x0 + k) := by
          rw [ihp]
          simp
        rw [he]
        refine ⟨fun r c => ?_, ?_⟩
        · simp only
          rw [Frame.pixel_toggle _ hrow (by omega), ihp, Bool.xor_assoc]
          congr 1
          by_cases h : r = row ∧ c = x0 + k
          · obtain ⟨rfl, rfl⟩ := h
            have h1 : x0 + k < 64 := by omega
            simp [back, bit, h1]
          · have : ∀ q, (r = row ∧ x0 ≤ c ∧ c < x0 + (k + 1) ∧ q) ↔ (r = row ∧ x0 ≤ c ∧ c < x0 + k ∧ q) := by
              intro q; constructor
              · rintro ⟨h1, h2, h3, h4⟩; exact ⟨h1, h2, by rcases Nat.lt_or_ge c (x0 + k) with l | l; exact l; exact absurd ⟨h1, by omega⟩ h, h4⟩
              · rintro ⟨h1, h2, h3, h4⟩; exact ⟨h1, h2, by omega, h4⟩
            simp only [this, h, decide_false, Bool.xor_false]
        · simp only [Bool.or_eq_true, ihc, hpix]
          constructor
          · rintro ((h | ⟨c, h1, h2, h3⟩) | h)
            · exact .inl h
            · exact .inr ⟨c, h1, by omega, h3⟩
            · exact .inr ⟨x0 + k, by omega, by omega, by omega, by simp [back, bit], h⟩
          · rintro (h | ⟨c, h1, h2, h3, h4, h5⟩)
            · exact .inl (.inl h)
            · by_cases e' : c = x0 + k
              · exact .inr (e' ▸ h5)
              · exact .inl (.inr ⟨c, h1, by omega, h3, h4, h5⟩)
      · have he : drawBit b row x0 e k = e := by simp [drawBit, bit]
        rw [he]
        have out : ∀ c, c < x0 + (k + 1) → x0 ≤ c → b.getLsbD (7 - (c - x0)) = true → c < x0 + k := by
          intro c h1 h2 h3
          rcases Nat.lt_or_ge c (x0 + k) with l | l
          · exact l
          · have : c - x0 = k := by omega
            rw [this] at h3; exact absurd h3 bit
        refine ⟨fun r c => ?_, ?_⟩
        · rw [ihp]; congr 2; apply propext; constructor
          · rintro ⟨h1, h2, h3, h4⟩; exact ⟨h1, h2, by omega, h4⟩
          · rintro ⟨h1, h2, h3, h4, h5⟩; exact ⟨h1, h2, out c h3 h2 h5, h4, h5⟩
        · rw [ihc]; apply or_congr Iff.rfl; constructor
          · rintro ⟨c, h1, h2, h3⟩; exact ⟨c, h1, by omega, h3⟩
          · rintro ⟨c, h1, h2, h3, h4, h5⟩; exact ⟨c, h1, out c h2 h1 h4, h3, h4, h5⟩

theorem spriteBit_cons (x0 y0 : Nat) (b : Byte) (bs : List Byte) (r c : Nat) :
    spriteBit x0 y0 (b :: bs) r c =
      (decide (r = y0 ∧ x0 ≤ c ∧ c < x0 + 8 ∧ b.getLsbD (7 - (c - x0)) = true) || spriteBit x0 (y0 + 1) bs r c) := by
  unfold spriteBit
  by_cases h : r = y0
  · subst h
    have : ¬ (r + 1 ≤ r ∧ r < r + 1 + bs.length ∧ x0 ≤ c ∧ c < x0 + 8) := by omega
    by_cases hc : x0 ≤ c ∧ c < x0 + 8
    · obtain ⟨h1, h2⟩ := hc
      simp [h1, h2]
    · have h3 : ¬ (x0 ≤ c ∧ c < x0 + 8 ∧ b.getLsbD (7 - (c - x0)) = true) := fun h => hc ⟨h.1, h.2.1⟩
      have h4 : ¬ (r ≤ r ∧ r < r + (b :: bs).length ∧ x0 ≤ c ∧ c < x0 + 8) := fun h => hc h.2.2
      simp only [h3, h4, this, decide_false, Bool.false_and, and_false, Bool.or_false]
  · by_cases hin : y0 + 1 ≤ r ∧ r < y0 + 1 + bs.length ∧ x0 ≤ c ∧ c < x0 + 8
    · have h2 : y0 ≤ r ∧ r < y0 + (b :: bs).length ∧ x0 ≤ c ∧ c < x0 + 8 := by simp; omega
      obtain ⟨k, rfl⟩ : ∃ k, r = y0 + 1 + k := ⟨r - (y0 + 1), by omega⟩
      have e1 : y0 + 1 + k - (y0 + 1) = k := by omega
      have e2 : y0 + 1 + k - y0 = k + 1 := by omega
      rw [e1, e2]
      simp only [h, hin, h2, and_self, decide_true, Bool.true_and, false_and, decide_false, Bool.false_or,
        List.getD_cons_succ]
    · have h2 : ¬ (y0 ≤ r ∧ r < y0 + (b :: bs).length ∧ x0 ≤ c ∧ c < x0 + 8) := by simp; omega
      have h3 : ¬ (r = y0 ∧ x0 ≤ c ∧ c < x0 + 8 ∧ b.getLsbD (7 - (c - x0)) = true) := fun e => h e.1
      rw [decide_eq_false h2, decide_eq_false h3, decide_eq_false hin]; rfl

/-- The draw pixel by pixel: an on-screen pixel under a set sprite bit is toggled, every other pixel keeps its value. -/
theorem drawRows_pixel (x0 : Nat) (bs : List Byte) : ∀ (y0 : Nat) (d : Drawing) (r c : Nat), r < 32 → c < 64 →
    (drawRows x0 y0 bs d).1.pixel r c = (d.1.pixel r c ^^ spriteBit x0 y0 bs r c) := by
  induction bs with
  | nil =>
    intro y0 d r c _ _
    have : ¬ (y0 ≤ r ∧ r < y0 ∧ x0 ≤ c ∧ c < x0 + 8) := by omega
    simp [drawRows, spriteBit, this]
  | cons b bs ih =>
    intro y0 d r c hr hc
    rw [drawRows, ih _ _ _ _ hr hc, spriteBit_cons]
    by_cases hy : 32 ≤ y0
    · have : ¬ (r = y0 ∧ x0 ≤ c ∧ c < x0 + 8 ∧ b.getLsbD (7 - (c - x0)) = true) := by omega
      simp [drawRow, hy, this]
    · rw [drawRow, if_neg hy, (drawBits_spec b x0 (by omega) d 8).1, Bool.xor_assoc]
      congr 1
      by_cases e : r = y0
      · subst e
        have hz : spriteBit x0 (r + 1) bs r c = false := by
          have : ¬ (r + 1 ≤ r ∧ r < r + 1 + bs.length ∧ x0 ≤ c ∧ c < x0 + 8) := by omega
          unfold spriteBit; rw [decide_eq_false this, Bool.false_and]
        simp [hz, hc]
      · simp [e]

/-- `coll` is set exactly when an on-screen pixel under a set sprite bit was on (43_display.md R182, R183). -/
theorem drawRows_collision (x0 : Nat) (bs : List Byte) : ∀ (y0 : Nat) (d : Drawing),
    ((drawRows x0 y0 bs d).2 = true ↔
      d.2 = true ∨ ∃ r c, r < 32 ∧ c < 64 ∧ spriteBit x0 y0 bs r c = true ∧ d.1.pixel r c = true) := by
  induction bs with
  | nil =>
    intro y0 d
    constructor
    · intro h; exact .inl h
    · rintro (h | ⟨r, c, _, _, h, _⟩)
      · exact h
      · have : ¬ (y0 ≤ r ∧ r < y0 ∧ x0 ≤ c ∧ c < x0 + 8) := by omega
        simp [spriteBit, this] at h
  | cons b bs ih =>
    intro y0 d
    rw [drawRows, ih]
    by_cases hy : 32 ≤ y0
    · rw [drawRow, if_pos hy]
      apply or_congr Iff.rfl
      constructor
      · rintro ⟨r, c, hr, hc, h, hp⟩
        exact ⟨r, c, hr, hc, by rw [spriteBit_cons, h, Bool.or_true], hp⟩
      · rintro ⟨r, c, hr, hc, h, hp⟩
        refine ⟨r, c, hr, hc, ?_, hp⟩
        rw [spriteBit_cons, Bool.or_eq_true] at h
        rcases h with h | h
        · have := (of_decide_eq_true h).1; omega
        · exact h
    · have hy' : y0 < 32 := by omega
      rw [drawRow, if_neg hy]
      obtain ⟨hp8, hc8⟩ := drawBits_spec b x0 hy' d 8
      have below : ∀ r c, spriteBit x0 (y0 + 1) bs r c = true → r ≠ y0 := by
        intro r c h e
        unfold spriteBit at h
        rw [Bool.and_eq_true] at h
        have := of_decide_eq_true h.1; omega
      rw [hc8]
      constructor
      · rintro ((h | ⟨c, h1, h2, h3, h4, h5⟩) | ⟨r, c, hr, hc, h, hp⟩)
        · exact .inl h
        · exact .inr ⟨y0, c, hy', h3, by rw [spriteBit_cons]; simp [h1, h2, h4], h5⟩
        · refine .inr ⟨r, c, hr, hc, by rw [spriteBit_cons, h, Bool.or_true], ?_⟩
          rw [hp8] at hp
          have hne := below r c h
          simpa [hne] using hp
      · rintro (h | ⟨r, c, hr, hc, h, hp⟩)
        · exact .inl (.inl h)
        · rw [spriteBit_cons, Bool.or_eq_true] at h
          rcases h with h | h
          · obtain ⟨rfl, h1, h2, h3⟩ := of_decide_eq_true h
            exact .inl (.inr ⟨c, h1, h2, hc, h3, hp⟩)
          · refine .inr ⟨r, c, hr, hc, h, ?_⟩
            rw [hp8]
            simp [below r c h, hp]

end Sys2Proof.Machine
end

