-- ==== Sys2Proof/Laws/EndOfRun.lean ====
section
/-!
SUPPORT. What the end-of-run test asks of a word (40_step_and_dispatch.md R131).
-/

namespace Sys2Proof.Machine

/-- `zext_16(nnn)` as a number (30_encoding.md R93). -/
@[simp] theorem addrOf_toNat (nnn : Addr12) : (addrOf nnn).toNat = nnn.toNat := by simp [addrOf]; omega

/-- A word jumps to `a` exactly when it is `1nnn` with `nnn = a`. -/
theorem jumpsTo_iff (w a : Word) : jumpsTo w a = true ↔ ∃ nnn, decode w = .ok (.jp nnn) ∧ nnn.toNat = a.toNat := by
  unfold jumpsTo
  split
  · rename_i nnn h
    rw [h]
    simp only [beq_iff_eq, Except.ok.injEq, Instr.jp.injEq]
    constructor
    · intro e; exact ⟨nnn, rfl, by rw [← e, addrOf_toNat]⟩
    · rintro ⟨m, rfl, e⟩; exact BitVec.eq_of_toNat_eq (by rw [addrOf_toNat, e])
  · rename_i h
    simp only [Bool.false_eq_true, false_iff, not_exists, not_and]
    intro n hn
    exact absurd hn (h n)

end Sys2Proof.Machine
end

