-- ==== Sys2Proof/Laws/Memory.lean ====
section
/-!
SUPPORT. The laws of memory: a read after a write, and that every operation keeps the canonical form (20_memory.md R60, R66).
-/

namespace Sys2Proof.Machine

@[simp] theorem Memory.read_nil (a : Nat) : Memory.read [] a = resetByte a := rfl

theorem Memory.read_cons (c : Host.Cell) (m : Memory) (a : Nat) :
    Memory.read (c :: m) a = if c.1 = a then c.2 else Memory.read m a := rfl

theorem Memory.unlist_cons (c : Host.Cell) (m : Memory) (a : Nat) :
    Memory.unlist (c :: m) a = if c.1 = a then Memory.unlist m a else c :: Memory.unlist m a := by
  by_cases h : c.1 = a <;> simp [Memory.unlist, h]

theorem Memory.read_unlist (m : Memory) (a b : Nat) :
    (m.unlist a).read b = if b = a then resetByte b else m.read b := by
  induction m with
  | nil => simp [Memory.unlist]
  | cons c m ih =>
    rw [Memory.unlist_cons, Memory.read_cons]
    by_cases h : c.1 = a
    · simp only [h, if_true, ih]
      by_cases hb : b = a
      · simp [hb]
      · simp [hb, Ne.symm hb]
    · simp only [h, if_false, Memory.read_cons, ih]
      by_cases hc : c.1 = b
      · have : b ≠ a := fun e => h (hc.trans e)
        simp [hc, this]
      · simp [hc]

theorem Memory.read_enlist (m : Memory) (a b : Nat) (v : Byte) (h : ∀ c ∈ m, c.1 ≠ a) :
    (m.enlist a v).read b = if b = a then v else m.read b := by
  induction m with
  | nil =>
    by_cases hb : b = a
    · simp [Memory.enlist, Memory.read_cons, hb]
    · simp [Memory.enlist, Memory.read_cons, hb, Ne.symm hb]
  | cons c m ih =>
    unfold Memory.enlist
    split
    · rw [Memory.read_cons]
      by_cases hb : b = a
      · simp [hb]
      · simp [hb, Ne.symm hb]
    · rw [Memory.read_cons, Memory.read_cons, ih (fun d hd => h d (List.mem_cons_of_mem _ hd))]
      by_cases hb : b = a
      · have : c.1 ≠ b := fun e => h c List.mem_cons_self (e.trans hb)
        simp [hb, hb ▸ this]
      · simp [hb]

theorem Memory.unlist_ne (m : Memory) (a : Nat) : ∀ c ∈ m.unlist a, c.1 ≠ a := by
  intro c hc
  simpa using (List.mem_filter.mp hc).2

/-- A read after a write: the byte written at its own address, the old byte at every other, for any memory. -/
theorem Memory.read_write (m : Memory) (a b : Nat) (v : Byte) :
    (m.write a v).read b = if b = a then v else m.read b := by
  unfold Memory.write
  split
  · rename_i h
    rw [Memory.read_unlist]
    by_cases hb : b = a
    · simp [hb, h]
    · simp [hb]
  · rw [Memory.read_enlist _ _ _ _ (m.unlist_ne a), Memory.read_unlist]
    by_cases hb : b = a <;> simp [hb]

/-- A read after a run of bytes is stored: the byte stored there, or the old byte outside the run. -/
theorem Memory.read_writeBytes (bs : List Byte) : ∀ (m : Memory) (a b : Nat),
    (m.writeBytes a bs).read b = if a ≤ b ∧ b < a + bs.length then bs.getD (b - a) 0#8 else m.read b := by
  induction bs with
  | nil =>
    intro m a b
    have : ¬ (a ≤ b ∧ b < a) := by omega
    simp [Memory.writeBytes, this]
  | cons v bs ih =>
    intro m a b
    rw [Memory.writeBytes, ih, Memory.read_write]
    by_cases h1 : a + 1 ≤ b ∧ b < a + 1 + bs.length
    · have h2 : a ≤ b ∧ b < a + (v :: bs).length := by simp; omega
      rw [if_pos h1, if_pos h2]
      obtain ⟨k, rfl⟩ : ∃ k, b = a + 1 + k := ⟨b - (a + 1), by omega⟩
      have e1 : a + 1 + k - (a + 1) = k := by omega
      have e2 : a + 1 + k - a = k + 1 := by omega
      rw [e1, e2]; rfl
    · rw [if_neg h1]
      by_cases hb : b = a
      · subst hb
        have : b ≤ b ∧ b < b + (v :: bs).length := by simp
        rw [if_pos rfl, if_pos this]; simp
      · have : ¬ (a ≤ b ∧ b < a + (v :: bs).length) := by simp; omega
        rw [if_neg hb, if_neg this]

theorem Memory.wf_nil : Memory.wf [] := by simp [Memory.wf]

theorem Memory.wf_unlist {m : Memory} (h : m.wf) (a : Nat) : (m.unlist a).wf := by
  refine ⟨?_, fun c hc => h.2 c (List.mem_filter.mp hc).1⟩
  exact h.1.sublist ((List.filter_sublist (l := m)).map _)

theorem Memory.mem_enlist {m : Memory} {a : Nat} {v : Byte} {c : Host.Cell} (h : c ∈ m.enlist a v) :
    c = (a, v) ∨ c ∈ m := by
  induction m with
  | nil => simpa [Memory.enlist] using h
  | cons d m ih =>
    unfold Memory.enlist at h
    split at h
    · simpa using h
    · rcases List.mem_cons.mp h with rfl | h
      · simp
      · rcases ih h with h | h <;> simp [h]

theorem Memory.wf_enlist {m : Memory} (h : m.wf) {a : Nat} {v : Byte} (ha : a ≤ topAddr) (hv : v ≠ resetByte a)
    (hm : ∀ c ∈ m, c.1 ≠ a) : (m.enlist a v).wf := by
  refine ⟨?_, ?_⟩
  · induction m with
    | nil => simp [Memory.enlist]
    | cons d m ih =>
      have hd := List.pairwise_cons.mp h.1
      have hw : Memory.wf m := ⟨hd.2, fun c hc => h.2 c (List.mem_cons_of_mem _ hc)⟩
      unfold Memory.enlist
      split
      · rename_i hlt
        simp only [List.map_cons, List.pairwise_cons, List.mem_cons]
        refine ⟨?_, hd.1, hd.2⟩
        rintro x (rfl | hx)
        · exact hlt
        · exact Nat.lt_trans hlt (hd.1 x hx)
      · rename_i hge
        rw [List.map_cons, List.pairwise_cons]
        refine ⟨?_, ih hw (fun c hc => hm c (List.mem_cons_of_mem _ hc))⟩
        intro x hx
        obtain ⟨c, hc, rfl⟩ := List.mem_map.mp hx
        rcases Memory.mem_enlist hc with rfl | hc
        · have := hm d List.mem_cons_self
          simp only; omega
        · exact hd.1 _ (List.mem_map_of_mem hc)
  · intro c hc
    rcases Memory.mem_enlist hc with rfl | hc
    · exact ⟨ha, hv⟩
    · exact h.2 c hc

/-- A write in 0x000 to 0xFFF keeps the canonical form. -/
theorem Memory.wf_write {m : Memory} (h : m.wf) {a : Nat} (ha : a ≤ topAddr) (v : Byte) : (m.write a v).wf := by
  unfold Memory.write
  split
  · exact Memory.wf_unlist h a
  · exact Memory.wf_enlist (Memory.wf_unlist h a) ha ‹_› (m.unlist_ne a)

/-- A run of writes in 0x000 to 0xFFF keeps the canonical form. -/
theorem Memory.wf_writeBytes (bs : List Byte) : ∀ {m : Memory} {a : Nat}, m.wf → a + bs.length ≤ topAddr + 1 →
    (m.writeBytes a bs).wf := by
  induction bs with
  | nil => intro m a h _; exact h
  | cons v bs ih =>
    intro m a h hl
    simp only [List.length_cons] at hl
    exact ih (Memory.wf_write h (by omega) v) (by omega)

/-- The reset image is canonical for any `FONT` and `PROGRAM` (20_memory.md R64, R65). -/
theorem Memory.wf_image (font program : List Byte) : (Memory.image font program).wf := by
  refine Memory.wf_writeBytes _ (Memory.wf_writeBytes _ Memory.wf_nil ?_) ?_ <;>
    simp [programBase, programCapacity, topAddr] <;> omega

/-- With the default `FONT` and an empty `PROGRAM` nothing is listed (log entries 5, 6). -/
theorem Memory.image_default : Memory.image glyphFont [] = [] := by decide

theorem readByte_storeBytes (s : State) (a b : Nat) (bs : List Byte) :
    (s.storeBytes a bs).readByte b =
      if a ≤ b ∧ b < a + bs.length then bs.getD (b - a) 0#8 else s.readByte b :=
  Memory.read_writeBytes bs s.mem a b

end Sys2Proof.Machine
end

