-- ==== Sys2Proof/Laws/State.lean ====
section
/-!
SUPPORT. What each named update of the state does to each field: one lemma per field per update, true by rfl, so that no proof
unfolds a record update.
-/

namespace Sys2Proof.Machine

variable (s : State)

@[simp] theorem State.writeV_v (r : RegIx) (b : Byte) : (s.writeV r b).v = s.v.set r.toNat b r.isLt := rfl
@[simp] theorem State.writeV_i (r : RegIx) (b : Byte) : (s.writeV r b).i = s.i := rfl
@[simp] theorem State.writeV_pc (r : RegIx) (b : Byte) : (s.writeV r b).pc = s.pc := rfl
@[simp] theorem State.writeV_sp (r : RegIx) (b : Byte) : (s.writeV r b).sp = s.sp := rfl
@[simp] theorem State.writeV_stack (r : RegIx) (b : Byte) : (s.writeV r b).stack = s.stack := rfl
@[simp] theorem State.writeV_dt (r : RegIx) (b : Byte) : (s.writeV r b).dt = s.dt := rfl
@[simp] theorem State.writeV_st (r : RegIx) (b : Byte) : (s.writeV r b).st = s.st := rfl
@[simp] theorem State.writeV_fb (r : RegIx) (b : Byte) : (s.writeV r b).fb = s.fb := rfl
@[simp] theorem State.writeV_waitValid (r : RegIx) (b : Byte) : (s.writeV r b).waitValid = s.waitValid := rfl
@[simp] theorem State.writeV_waitReg (r : RegIx) (b : Byte) : (s.writeV r b).waitReg = s.waitReg := rfl
@[simp] theorem State.writeV_div (r : RegIx) (b : Byte) : (s.writeV r b).div = s.div := rfl
@[simp] theorem State.writeV_mode (r : RegIx) (b : Byte) : (s.writeV r b).mode = s.mode := rfl
@[simp] theorem State.writeV_faultCode (r : RegIx) (b : Byte) : (s.writeV r b).faultCode = s.faultCode := rfl
@[simp] theorem State.writeV_faultAddr (r : RegIx) (b : Byte) : (s.writeV r b).faultAddr = s.faultAddr := rfl
@[simp] theorem State.writeV_faultWord (r : RegIx) (b : Byte) : (s.writeV r b).faultWord = s.faultWord := rfl
@[simp] theorem State.writeV_faultInfo (r : RegIx) (b : Byte) : (s.writeV r b).faultInfo = s.faultInfo := rfl
@[simp] theorem State.writeV_cfg (r : RegIx) (b : Byte) : (s.writeV r b).cfg = s.cfg := rfl
@[simp] theorem State.writeV_mem (r : RegIx) (b : Byte) : (s.writeV r b).mem = s.mem := rfl
@[simp] theorem State.writeV_displayChanged (r : RegIx) (b : Byte) : (s.writeV r b).displayChanged = s.displayChanged := rfl
@[simp] theorem State.writeV_keys (r : RegIx) (b : Byte) : (s.writeV r b).keys = s.keys := rfl
@[simp] theorem State.writeV_rnd (r : RegIx) (b : Byte) : (s.writeV r b).rnd = s.rnd := rfl
@[simp] theorem State.writeV_hostInputs (r : RegIx) (b : Byte) : (s.writeV r b).hostInputs = s.hostInputs := rfl
@[simp] theorem State.writeV_drawCount (r : RegIx) (b : Byte) : (s.writeV r b).drawCount = s.drawCount := rfl

@[simp] theorem State.setPc_v (a : Word) : (s.setPc a).v = s.v := rfl
@[simp] theorem State.setPc_i (a : Word) : (s.setPc a).i = s.i := rfl
@[simp] theorem State.setPc_pc (a : Word) : (s.setPc a).pc = a := rfl
@[simp] theorem State.setPc_sp (a : Word) : (s.setPc a).sp = s.sp := rfl
@[simp] theorem State.setPc_stack (a : Word) : (s.setPc a).stack = s.stack := rfl
@[simp] theorem State.setPc_dt (a : Word) : (s.setPc a).dt = s.dt := rfl
@[simp] theorem State.setPc_st (a : Word) : (s.setPc a).st = s.st := rfl
@[simp] theorem State.setPc_fb (a : Word) : (s.setPc a).fb = s.fb := rfl
@[simp] theorem State.setPc_waitValid (a : Word) : (s.setPc a).waitValid = s.waitValid := rfl
@[simp] theorem State.setPc_waitReg (a : Word) : (s.setPc a).waitReg = s.waitReg := rfl
@[simp] theorem State.setPc_div (a : Word) : (s.setPc a).div = s.div := rfl
@[simp] theorem State.setPc_mode (a : Word) : (s.setPc a).mode = s.mode := rfl
@[simp] theorem State.setPc_faultCode (a : Word) : (s.setPc a).faultCode = s.faultCode := rfl
@[simp] theorem State.setPc_faultAddr (a : Word) : (s.setPc a).faultAddr = s.faultAddr := rfl
@[simp] theorem State.setPc_faultWord (a : Word) : (s.setPc a).faultWord = s.faultWord := rfl
@[simp] theorem State.setPc_faultInfo (a : Word) : (s.setPc a).faultInfo = s.faultInfo := rfl
@[simp] theorem State.setPc_cfg (a : Word) : (s.setPc a).cfg = s.cfg := rfl
@[simp] theorem State.setPc_mem (a : Word) : (s.setPc a).mem = s.mem := rfl
@[simp] theorem State.setPc_displayChanged (a : Word) : (s.setPc a).displayChanged = s.displayChanged := rfl
@[simp] theorem State.setPc_keys (a : Word) : (s.setPc a).keys = s.keys := rfl
@[simp] theorem State.setPc_rnd (a : Word) : (s.setPc a).rnd = s.rnd := rfl
@[simp] theorem State.setPc_hostInputs (a : Word) : (s.setPc a).hostInputs = s.hostInputs := rfl
@[simp] theorem State.setPc_drawCount (a : Word) : (s.setPc a).drawCount = s.drawCount := rfl

@[simp] theorem State.setI_v (a : Word) : (s.setI a).v = s.v := rfl
@[simp] theorem State.setI_i (a : Word) : (s.setI a).i = a := rfl
@[simp] theorem State.setI_pc (a : Word) : (s.setI a).pc = s.pc := rfl
@[simp] theorem State.setI_sp (a : Word) : (s.setI a).sp = s.sp := rfl
@[simp] theorem State.setI_stack (a : Word) : (s.setI a).stack = s.stack := rfl
@[simp] theorem State.setI_dt (a : Word) : (s.setI a).dt = s.dt := rfl
@[simp] theorem State.setI_st (a : Word) : (s.setI a).st = s.st := rfl
@[simp] theorem State.setI_fb (a : Word) : (s.setI a).fb = s.fb := rfl
@[simp] theorem State.setI_waitValid (a : Word) : (s.setI a).waitValid = s.waitValid := rfl
@[simp] theorem State.setI_waitReg (a : Word) : (s.setI a).waitReg = s.waitReg := rfl
@[simp] theorem State.setI_div (a : Word) : (s.setI a).div = s.div := rfl
@[simp] theorem State.setI_mode (a : Word) : (s.setI a).mode = s.mode := rfl
@[simp] theorem State.setI_faultCode (a : Word) : (s.setI a).faultCode = s.faultCode := rfl
@[simp] theorem State.setI_faultAddr (a : Word) : (s.setI a).faultAddr = s.faultAddr := rfl
@[simp] theorem State.setI_faultWord (a : Word) : (s.setI a).faultWord = s.faultWord := rfl
@[simp] theorem State.setI_faultInfo (a : Word) : (s.setI a).faultInfo = s.faultInfo := rfl
@[simp] theorem State.setI_cfg (a : Word) : (s.setI a).cfg = s.cfg := rfl
@[simp] theorem State.setI_mem (a : Word) : (s.setI a).mem = s.mem := rfl
@[simp] theorem State.setI_displayChanged (a : Word) : (s.setI a).displayChanged = s.displayChanged := rfl
@[simp] theorem State.setI_keys (a : Word) : (s.setI a).keys = s.keys := rfl
@[simp] theorem State.setI_rnd (a : Word) : (s.setI a).rnd = s.rnd := rfl
@[simp] theorem State.setI_hostInputs (a : Word) : (s.setI a).hostInputs = s.hostInputs := rfl
@[simp] theorem State.setI_drawCount (a : Word) : (s.setI a).drawCount = s.drawCount := rfl

@[simp] theorem State.setDT_v (b : Byte) : (s.setDT b).v = s.v := rfl
@[simp] theorem State.setDT_i (b : Byte) : (s.setDT b).i = s.i := rfl
@[simp] theorem State.setDT_pc (b : Byte) : (s.setDT b).pc = s.pc := rfl
@[simp] theorem State.setDT_sp (b : Byte) : (s.setDT b).sp = s.sp := rfl
@[simp] theorem State.setDT_stack (b : Byte) : (s.setDT b).stack = s.stack := rfl
@[simp] theorem State.setDT_dt (b : Byte) : (s.setDT b).dt = b := rfl
@[simp] theorem State.setDT_st (b : Byte) : (s.setDT b).st = s.st := rfl
@[simp] theorem State.setDT_fb (b : Byte) : (s.setDT b).fb = s.fb := rfl
@[simp] theorem State.setDT_waitValid (b : Byte) : (s.setDT b).waitValid = s.waitValid := rfl
@[simp] theorem State.setDT_waitReg (b : Byte) : (s.setDT b).waitReg = s.waitReg := rfl
@[simp] theorem State.setDT_div (b : Byte) : (s.setDT b).div = s.div := rfl
@[simp] theorem State.setDT_mode (b : Byte) : (s.setDT b).mode = s.mode := rfl
@[simp] theorem State.setDT_faultCode (b : Byte) : (s.setDT b).faultCode = s.faultCode := rfl
@[simp] theorem State.setDT_faultAddr (b : Byte) : (s.setDT b).faultAddr = s.faultAddr := rfl
@[simp] theorem State.setDT_faultWord (b : Byte) : (s.setDT b).faultWord = s.faultWord := rfl
@[simp] theorem State.setDT_faultInfo (b : Byte) : (s.setDT b).faultInfo = s.faultInfo := rfl
@[simp] theorem State.setDT_cfg (b : Byte) : (s.setDT b).cfg = s.cfg := rfl
@[simp] theorem State.setDT_mem (b : Byte) : (s.setDT b).mem = s.mem := rfl
@[simp] theorem State.setDT_displayChanged (b : Byte) : (s.setDT b).displayChanged = s.displayChanged := rfl
@[simp] theorem State.setDT_keys (b : Byte) : (s.setDT b).keys = s.keys := rfl
@[simp] theorem State.setDT_rnd (b : Byte) : (s.setDT b).rnd = s.rnd := rfl
@[simp] theorem State.setDT_hostInputs (b : Byte) : (s.setDT b).hostInputs = s.hostInputs := rfl
@[simp] theorem State.setDT_drawCount (b : Byte) : (s.setDT b).drawCount = s.drawCount := rfl

@[simp] theorem State.setST_v (b : Byte) : (s.setST b).v = s.v := rfl
@[simp] theorem State.setST_i (b : Byte) : (s.setST b).i = s.i := rfl
@[simp] theorem State.setST_pc (b : Byte) : (s.setST b).pc = s.pc := rfl
@[simp] theorem State.setST_sp (b : Byte) : (s.setST b).sp = s.sp := rfl
@[simp] theorem State.setST_stack (b : Byte) : (s.setST b).stack = s.stack := rfl
@[simp] theorem State.setST_dt (b : Byte) : (s.setST b).dt = s.dt := rfl
@[simp] theorem State.setST_st (b : Byte) : (s.setST b).st = b := rfl
@[simp] theorem State.setST_fb (b : Byte) : (s.setST b).fb = s.fb := rfl
@[simp] theorem State.setST_waitValid (b : Byte) : (s.setST b).waitValid = s.waitValid := rfl
@[simp] theorem State.setST_waitReg (b : Byte) : (s.setST b).waitReg = s.waitReg := rfl
@[simp] theorem State.setST_div (b : Byte) : (s.setST b).div = s.div := rfl
@[simp] theorem State.setST_mode (b : Byte) : (s.setST b).mode = s.mode := rfl
@[simp] theorem State.setST_faultCode (b : Byte) : (s.setST b).faultCode = s.faultCode := rfl
@[simp] theorem State.setST_faultAddr (b : Byte) : (s.setST b).faultAddr = s.faultAddr := rfl
@[simp] theorem State.setST_faultWord (b : Byte) : (s.setST b).faultWord = s.faultWord := rfl
@[simp] theorem State.setST_faultInfo (b : Byte) : (s.setST b).faultInfo = s.faultInfo := rfl
@[simp] theorem State.setST_cfg (b : Byte) : (s.setST b).cfg = s.cfg := rfl
@[simp] theorem State.setST_mem (b : Byte) : (s.setST b).mem = s.mem := rfl
@[simp] theorem State.setST_displayChanged (b : Byte) : (s.setST b).displayChanged = s.displayChanged := rfl
@[simp] theorem State.setST_keys (b : Byte) : (s.setST b).keys = s.keys := rfl
@[simp] theorem State.setST_rnd (b : Byte) : (s.setST b).rnd = s.rnd := rfl
@[simp] theorem State.setST_hostInputs (b : Byte) : (s.setST b).hostInputs = s.hostInputs := rfl
@[simp] theorem State.setST_drawCount (b : Byte) : (s.setST b).drawCount = s.drawCount := rfl

@[simp] theorem State.setMem_v (m : Memory) : (s.setMem m).v = s.v := rfl
@[simp] theorem State.setMem_i (m : Memory) : (s.setMem m).i = s.i := rfl
@[simp] theorem State.setMem_pc (m : Memory) : (s.setMem m).pc = s.pc := rfl
@[simp] theorem State.setMem_sp (m : Memory) : (s.setMem m).sp = s.sp := rfl
@[simp] theorem State.setMem_stack (m : Memory) : (s.setMem m).stack = s.stack := rfl
@[simp] theorem State.setMem_dt (m : Memory) : (s.setMem m).dt = s.dt := rfl
@[simp] theorem State.setMem_st (m : Memory) : (s.setMem m).st = s.st := rfl
@[simp] theorem State.setMem_fb (m : Memory) : (s.setMem m).fb = s.fb := rfl
@[simp] theorem State.setMem_waitValid (m : Memory) : (s.setMem m).waitValid = s.waitValid := rfl
@[simp] theorem State.setMem_waitReg (m : Memory) : (s.setMem m).waitReg = s.waitReg := rfl
@[simp] theorem State.setMem_div (m : Memory) : (s.setMem m).div = s.div := rfl
@[simp] theorem State.setMem_mode (m : Memory) : (s.setMem m).mode = s.mode := rfl
@[simp] theorem State.setMem_faultCode (m : Memory) : (s.setMem m).faultCode = s.faultCode := rfl
@[simp] theorem State.setMem_faultAddr (m : Memory) : (s.setMem m).faultAddr = s.faultAddr := rfl
@[simp] theorem State.setMem_faultWord (m : Memory) : (s.setMem m).faultWord = s.faultWord := rfl
@[simp] theorem State.setMem_faultInfo (m : Memory) : (s.setMem m).faultInfo = s.faultInfo := rfl
@[simp] theorem State.setMem_cfg (m : Memory) : (s.setMem m).cfg = s.cfg := rfl
@[simp] theorem State.setMem_mem (m : Memory) : (s.setMem m).mem = m := rfl
@[simp] theorem State.setMem_displayChanged (m : Memory) : (s.setMem m).displayChanged = s.displayChanged := rfl
@[simp] theorem State.setMem_keys (m : Memory) : (s.setMem m).keys = s.keys := rfl
@[simp] theorem State.setMem_rnd (m : Memory) : (s.setMem m).rnd = s.rnd := rfl
@[simp] theorem State.setMem_hostInputs (m : Memory) : (s.setMem m).hostInputs = s.hostInputs := rfl
@[simp] theorem State.setMem_drawCount (m : Memory) : (s.setMem m).drawCount = s.drawCount := rfl

@[simp] theorem State.setFrame_v (f : Frame) : (s.setFrame f).v = s.v := rfl
@[simp] theorem State.setFrame_i (f : Frame) : (s.setFrame f).i = s.i := rfl
@[simp] theorem State.setFrame_pc (f : Frame) : (s.setFrame f).pc = s.pc := rfl
@[simp] theorem State.setFrame_sp (f : Frame) : (s.setFrame f).sp = s.sp := rfl
@[simp] theorem State.setFrame_stack (f : Frame) : (s.setFrame f).stack = s.stack := rfl
@[simp] theorem State.setFrame_dt (f : Frame) : (s.setFrame f).dt = s.dt := rfl
@[simp] theorem State.setFrame_st (f : Frame) : (s.setFrame f).st = s.st := rfl
@[simp] theorem State.setFrame_fb (f : Frame) : (s.setFrame f).fb = f := rfl
@[simp] theorem State.setFrame_waitValid (f : Frame) : (s.setFrame f).waitValid = s.waitValid := rfl
@[simp] theorem State.setFrame_waitReg (f : Frame) : (s.setFrame f).waitReg = s.waitReg := rfl
@[simp] theorem State.setFrame_div (f : Frame) : (s.setFrame f).div = s.div := rfl
@[simp] theorem State.setFrame_mode (f : Frame) : (s.setFrame f).mode = s.mode := rfl
@[simp] theorem State.setFrame_faultCode (f : Frame) : (s.setFrame f).faultCode = s.faultCode := rfl
@[simp] theorem State.setFrame_faultAddr (f : Frame) : (s.setFrame f).faultAddr = s.faultAddr := rfl
@[simp] theorem State.setFrame_faultWord (f : Frame) : (s.setFrame f).faultWord = s.faultWord := rfl
@[simp] theorem State.setFrame_faultInfo (f : Frame) : (s.setFrame f).faultInfo = s.faultInfo := rfl
@[simp] theorem State.setFrame_cfg (f : Frame) : (s.setFrame f).cfg = s.cfg := rfl
@[simp] theorem State.setFrame_mem (f : Frame) : (s.setFrame f).mem = s.mem := rfl
@[simp] theorem State.setFrame_displayChanged (f : Frame) : (s.setFrame f).displayChanged = true := rfl
@[simp] theorem State.setFrame_keys (f : Frame) : (s.setFrame f).keys = s.keys := rfl
@[simp] theorem State.setFrame_rnd (f : Frame) : (s.setFrame f).rnd = s.rnd := rfl
@[simp] theorem State.setFrame_hostInputs (f : Frame) : (s.setFrame f).hostInputs = s.hostInputs := rfl
@[simp] theorem State.setFrame_drawCount (f : Frame) : (s.setFrame f).drawCount = s.drawCount := rfl

@[simp] theorem State.setWait_v (x : RegIx) : (s.setWait x).v = s.v := rfl
@[simp] theorem State.setWait_i (x : RegIx) : (s.setWait x).i = s.i := rfl
@[simp] theorem State.setWait_pc (x : RegIx) : (s.setWait x).pc = s.pc := rfl
@[simp] theorem State.setWait_sp (x : RegIx) : (s.setWait x).sp = s.sp := rfl
@[simp] theorem State.setWait_stack (x : RegIx) : (s.setWait x).stack = s.stack := rfl
@[simp] theorem State.setWait_dt (x : RegIx) : (s.setWait x).dt = s.dt := rfl
@[simp] theorem State.setWait_st (x : RegIx) : (s.setWait x).st = s.st := rfl
@[simp] theorem State.setWait_fb (x : RegIx) : (s.setWait x).fb = s.fb := rfl
@[simp] theorem State.setWait_waitValid (x : RegIx) : (s.setWait x).waitValid = true := rfl
@[simp] theorem State.setWait_waitReg (x : RegIx) : (s.setWait x).waitReg = x := rfl
@[simp] theorem State.setWait_div (x : RegIx) : (s.setWait x).div = s.div := rfl
@[simp] theorem State.setWait_mode (x : RegIx) : (s.setWait x).mode = s.mode := rfl
@[simp] theorem State.setWait_faultCode (x : RegIx) : (s.setWait x).faultCode = s.faultCode := rfl
@[simp] theorem State.setWait_faultAddr (x : RegIx) : (s.setWait x).faultAddr = s.faultAddr := rfl
@[simp] theorem State.setWait_faultWord (x : RegIx) : (s.setWait x).faultWord = s.faultWord := rfl
@[simp] theorem State.setWait_faultInfo (x : RegIx) : (s.setWait x).faultInfo = s.faultInfo := rfl
@[simp] theorem State.setWait_cfg (x : RegIx) : (s.setWait x).cfg = s.cfg := rfl
@[simp] theorem State.setWait_mem (x : RegIx) : (s.setWait x).mem = s.mem := rfl
@[simp] theorem State.setWait_displayChanged (x : RegIx) : (s.setWait x).displayChanged = s.displayChanged := rfl
@[simp] theorem State.setWait_keys (x : RegIx) : (s.setWait x).keys = s.keys := rfl
@[simp] theorem State.setWait_rnd (x : RegIx) : (s.setWait x).rnd = s.rnd := rfl
@[simp] theorem State.setWait_hostInputs (x : RegIx) : (s.setWait x).hostInputs = s.hostInputs := rfl
@[simp] theorem State.setWait_drawCount (x : RegIx) : (s.setWait x).drawCount = s.drawCount := rfl

@[simp] theorem State.clearWait_v : (s.clearWait).v = s.v := rfl
@[simp] theorem State.clearWait_i : (s.clearWait).i = s.i := rfl
@[simp] theorem State.clearWait_pc : (s.clearWait).pc = s.pc := rfl
@[simp] theorem State.clearWait_sp : (s.clearWait).sp = s.sp := rfl
@[simp] theorem State.clearWait_stack : (s.clearWait).stack = s.stack := rfl
@[simp] theorem State.clearWait_dt : (s.clearWait).dt = s.dt := rfl
@[simp] theorem State.clearWait_st : (s.clearWait).st = s.st := rfl
@[simp] theorem State.clearWait_fb : (s.clearWait).fb = s.fb := rfl
@[simp] theorem State.clearWait_waitValid : (s.clearWait).waitValid = false := rfl
@[simp] theorem State.clearWait_waitReg : (s.clearWait).waitReg = s.waitReg := rfl
@[simp] theorem State.clearWait_div : (s.clearWait).div = s.div := rfl
@[simp] theorem State.clearWait_mode : (s.clearWait).mode = s.mode := rfl
@[simp] theorem State.clearWait_faultCode : (s.clearWait).faultCode = s.faultCode := rfl
@[simp] theorem State.clearWait_faultAddr : (s.clearWait).faultAddr = s.faultAddr := rfl
@[simp] theorem State.clearWait_faultWord : (s.clearWait).faultWord = s.faultWord := rfl
@[simp] theorem State.clearWait_faultInfo : (s.clearWait).faultInfo = s.faultInfo := rfl
@[simp] theorem State.clearWait_cfg : (s.clearWait).cfg = s.cfg := rfl
@[simp] theorem State.clearWait_mem : (s.clearWait).mem = s.mem := rfl
@[simp] theorem State.clearWait_displayChanged : (s.clearWait).displayChanged = s.displayChanged := rfl
@[simp] theorem State.clearWait_keys : (s.clearWait).keys = s.keys := rfl
@[simp] theorem State.clearWait_rnd : (s.clearWait).rnd = s.rnd := rfl
@[simp] theorem State.clearWait_hostInputs : (s.clearWait).hostInputs = s.hostInputs := rfl
@[simp] theorem State.clearWait_drawCount : (s.clearWait).drawCount = s.drawCount := rfl

@[simp] theorem State.skipIf_v (c : Bool) : (s.skipIf c).v = s.v := rfl
@[simp] theorem State.skipIf_i (c : Bool) : (s.skipIf c).i = s.i := rfl
@[simp] theorem State.skipIf_pc (c : Bool) : (s.skipIf c).pc = if c then s.pc + 2#16 else s.pc := rfl
@[simp] theorem State.skipIf_sp (c : Bool) : (s.skipIf c).sp = s.sp := rfl
@[simp] theorem State.skipIf_stack (c : Bool) : (s.skipIf c).stack = s.stack := rfl
@[simp] theorem State.skipIf_dt (c : Bool) : (s.skipIf c).dt = s.dt := rfl
@[simp] theorem State.skipIf_st (c : Bool) : (s.skipIf c).st = s.st := rfl
@[simp] theorem State.skipIf_fb (c : Bool) : (s.skipIf c).fb = s.fb := rfl
@[simp] theorem State.skipIf_waitValid (c : Bool) : (s.skipIf c).waitValid = s.waitValid := rfl
@[simp] theorem State.skipIf_waitReg (c : Bool) : (s.skipIf c).waitReg = s.waitReg := rfl
@[simp] theorem State.skipIf_div (c : Bool) : (s.skipIf c).div = s.div := rfl
@[simp] theorem State.skipIf_mode (c : Bool) : (s.skipIf c).mode = s.mode := rfl
@[simp] theorem State.skipIf_faultCode (c : Bool) : (s.skipIf c).faultCode = s.faultCode := rfl
@[simp] theorem State.skipIf_faultAddr (c : Bool) : (s.skipIf c).faultAddr = s.faultAddr := rfl
@[simp] theorem State.skipIf_faultWord (c : Bool) : (s.skipIf c).faultWord = s.faultWord := rfl
@[simp] theorem State.skipIf_faultInfo (c : Bool) : (s.skipIf c).faultInfo = s.faultInfo := rfl
@[simp] theorem State.skipIf_cfg (c : Bool) : (s.skipIf c).cfg = s.cfg := rfl
@[simp] theorem State.skipIf_mem (c : Bool) : (s.skipIf c).mem = s.mem := rfl
@[simp] theorem State.skipIf_displayChanged (c : Bool) : (s.skipIf c).displayChanged = s.displayChanged := rfl
@[simp] theorem State.skipIf_keys (c : Bool) : (s.skipIf c).keys = s.keys := rfl
@[simp] theorem State.skipIf_rnd (c : Bool) : (s.skipIf c).rnd = s.rnd := rfl
@[simp] theorem State.skipIf_hostInputs (c : Bool) : (s.skipIf c).hostInputs = s.hostInputs := rfl
@[simp] theorem State.skipIf_drawCount (c : Bool) : (s.skipIf c).drawCount = s.drawCount := rfl

@[simp] theorem State.raise_v (k : Fault) (a w n : Word) : (s.raise k a w n).v = s.v := rfl
@[simp] theorem State.raise_i (k : Fault) (a w n : Word) : (s.raise k a w n).i = s.i := rfl
@[simp] theorem State.raise_pc (k : Fault) (a w n : Word) : (s.raise k a w n).pc = s.pc := rfl
@[simp] theorem State.raise_sp (k : Fault) (a w n : Word) : (s.raise k a w n).sp = s.sp := rfl
@[simp] theorem State.raise_stack (k : Fault) (a w n : Word) : (s.raise k a w n).stack = s.stack := rfl
@[simp] theorem State.raise_dt (k : Fault) (a w n : Word) : (s.raise k a w n).dt = s.dt := rfl
@[simp] theorem State.raise_st (k : Fault) (a w n : Word) : (s.raise k a w n).st = s.st := rfl
@[simp] theorem State.raise_fb (k : Fault) (a w n : Word) : (s.raise k a w n).fb = s.fb := rfl
@[simp] theorem State.raise_waitValid (k : Fault) (a w n : Word) : (s.raise k a w n).waitValid = s.waitValid := rfl
@[simp] theorem State.raise_waitReg (k : Fault) (a w n : Word) : (s.raise k a w n).waitReg = s.waitReg := rfl
@[simp] theorem State.raise_div (k : Fault) (a w n : Word) : (s.raise k a w n).div = s.div := rfl
@[simp] theorem State.raise_mode (k : Fault) (a w n : Word) : (s.raise k a w n).mode = .halt := rfl
@[simp] theorem State.raise_faultCode (k : Fault) (a w n : Word) : (s.raise k a w n).faultCode = k.code := rfl
@[simp] theorem State.raise_faultAddr (k : Fault) (a w n : Word) : (s.raise k a w n).faultAddr = a := rfl
@[simp] theorem State.raise_faultWord (k : Fault) (a w n : Word) : (s.raise k a w n).faultWord = w := rfl
@[simp] theorem State.raise_faultInfo (k : Fault) (a w n : Word) : (s.raise k a w n).faultInfo = n := rfl
@[simp] theorem State.raise_cfg (k : Fault) (a w n : Word) : (s.raise k a w n).cfg = s.cfg := rfl
@[simp] theorem State.raise_mem (k : Fault) (a w n : Word) : (s.raise k a w n).mem = s.mem := rfl
@[simp] theorem State.raise_displayChanged (k : Fault) (a w n : Word) : (s.raise k a w n).displayChanged = false := rfl
@[simp] theorem State.raise_keys (k : Fault) (a w n : Word) : (s.raise k a w n).keys = s.keys := rfl
@[simp] theorem State.raise_rnd (k : Fault) (a w n : Word) : (s.raise k a w n).rnd = s.rnd := rfl
@[simp] theorem State.raise_hostInputs (k : Fault) (a w n : Word) : (s.raise k a w n).hostInputs = s.hostInputs := rfl
@[simp] theorem State.raise_drawCount (k : Fault) (a w n : Word) : (s.raise k a w n).drawCount = s.drawCount := rfl

@[simp] theorem State.push_v (w : Word) (h : s.sp.val < stackDepth) : (s.push w h).v = s.v := rfl
@[simp] theorem State.push_i (w : Word) (h : s.sp.val < stackDepth) : (s.push w h).i = s.i := rfl
@[simp] theorem State.push_pc (w : Word) (h : s.sp.val < stackDepth) : (s.push w h).pc = s.pc := rfl
@[simp] theorem State.push_sp (w : Word) (h : s.sp.val < stackDepth) : (s.push w h).sp = ⟨s.sp.val + 1, Nat.succ_lt_succ h⟩ := rfl
@[simp] theorem State.push_stack (w : Word) (h : s.sp.val < stackDepth) : (s.push w h).stack = s.stack.set s.sp.val w h := rfl
@[simp] theorem State.push_dt (w : Word) (h : s.sp.val < stackDepth) : (s.push w h).dt = s.dt := rfl
@[simp] theorem State.push_st (w : Word) (h : s.sp.val < stackDepth) : (s.push w h).st = s.st := rfl
@[simp] theorem State.push_fb (w : Word) (h : s.sp.val < stackDepth) : (s.push w h).fb = s.fb := rfl
@[simp] theorem State.push_waitValid (w : Word) (h : s.sp.val < stackDepth) : (s.push w h).waitValid = s.waitValid := rfl
@[simp] theorem State.push_waitReg (w : Word) (h : s.sp.val < stackDepth) : (s.push w h).waitReg = s.waitReg := rfl
@[simp] theorem State.push_div (w : Word) (h : s.sp.val < stackDepth) : (s.push w h).div = s.div := rfl
@[simp] theorem State.push_mode (w : Word) (h : s.sp.val < stackDepth) : (s.push w h).mode = s.mode := rfl
@[simp] theorem State.push_faultCode (w : Word) (h : s.sp.val < stackDepth) : (s.push w h).faultCode = s.faultCode := rfl
@[simp] theorem State.push_faultAddr (w : Word) (h : s.sp.val < stackDepth) : (s.push w h).faultAddr = s.faultAddr := rfl
@[simp] theorem State.push_faultWord (w : Word) (h : s.sp.val < stackDepth) : (s.push w h).faultWord = s.faultWord := rfl
@[simp] theorem State.push_faultInfo (w : Word) (h : s.sp.val < stackDepth) : (s.push w h).faultInfo = s.faultInfo := rfl
@[simp] theorem State.push_cfg (w : Word) (h : s.sp.val < stackDepth) : (s.push w h).cfg = s.cfg := rfl
@[simp] theorem State.push_mem (w : Word) (h : s.sp.val < stackDepth) : (s.push w h).mem = s.mem := rfl
@[simp] theorem State.push_displayChanged (w : Word) (h : s.sp.val < stackDepth) : (s.push w h).displayChanged = s.displayChanged := rfl
@[simp] theorem State.push_keys (w : Word) (h : s.sp.val < stackDepth) : (s.push w h).keys = s.keys := rfl
@[simp] theorem State.push_rnd (w : Word) (h : s.sp.val < stackDepth) : (s.push w h).rnd = s.rnd := rfl
@[simp] theorem State.push_hostInputs (w : Word) (h : s.sp.val < stackDepth) : (s.push w h).hostInputs = s.hostInputs := rfl
@[simp] theorem State.push_drawCount (w : Word) (h : s.sp.val < stackDepth) : (s.push w h).drawCount = s.drawCount := rfl

@[simp] theorem State.dropTop_v : (s.dropTop).v = s.v := rfl
@[simp] theorem State.dropTop_i : (s.dropTop).i = s.i := rfl
@[simp] theorem State.dropTop_pc : (s.dropTop).pc = s.pc := rfl
@[simp] theorem State.dropTop_sp : (s.dropTop).sp = ⟨s.sp.val - 1, Nat.lt_of_le_of_lt (Nat.sub_le _ _) s.sp.isLt⟩ := rfl
@[simp] theorem State.dropTop_stack : (s.dropTop).stack = s.stack := rfl
@[simp] theorem State.dropTop_dt : (s.dropTop).dt = s.dt := rfl
@[simp] theorem State.dropTop_st : (s.dropTop).st = s.st := rfl
@[simp] theorem State.dropTop_fb : (s.dropTop).fb = s.fb := rfl
@[simp] theorem State.dropTop_waitValid : (s.dropTop).waitValid = s.waitValid := rfl
@[simp] theorem State.dropTop_waitReg : (s.dropTop).waitReg = s.waitReg := rfl
@[simp] theorem State.dropTop_div : (s.dropTop).div = s.div := rfl
@[simp] theorem State.dropTop_mode : (s.dropTop).mode = s.mode := rfl
@[simp] theorem State.dropTop_faultCode : (s.dropTop).faultCode = s.faultCode := rfl
@[simp] theorem State.dropTop_faultAddr : (s.dropTop).faultAddr = s.faultAddr := rfl
@[simp] theorem State.dropTop_faultWord : (s.dropTop).faultWord = s.faultWord := rfl
@[simp] theorem State.dropTop_faultInfo : (s.dropTop).faultInfo = s.faultInfo := rfl
@[simp] theorem State.dropTop_cfg : (s.dropTop).cfg = s.cfg := rfl
@[simp] theorem State.dropTop_mem : (s.dropTop).mem = s.mem := rfl
@[simp] theorem State.dropTop_displayChanged : (s.dropTop).displayChanged = s.displayChanged := rfl
@[simp] theorem State.dropTop_keys : (s.dropTop).keys = s.keys := rfl
@[simp] theorem State.dropTop_rnd : (s.dropTop).rnd = s.rnd := rfl
@[simp] theorem State.dropTop_hostInputs : (s.dropTop).hostInputs = s.hostInputs := rfl
@[simp] theorem State.dropTop_drawCount : (s.dropTop).drawCount = s.drawCount := rfl

@[simp] theorem State.advanceI_v (x : RegIx) : (s.advanceI x).v = s.v := rfl
@[simp] theorem State.advanceI_i (x : RegIx) : (s.advanceI x).i = if s.cfg.incrementIndexOnStoreLoad then s.i + BitVec.ofNat 16 (x.toNat + 1) else s.i := rfl
@[simp] theorem State.advanceI_pc (x : RegIx) : (s.advanceI x).pc = s.pc := rfl
@[simp] theorem State.advanceI_sp (x : RegIx) : (s.advanceI x).sp = s.sp := rfl
@[simp] theorem State.advanceI_stack (x : RegIx) : (s.advanceI x).stack = s.stack := rfl
@[simp] theorem State.advanceI_dt (x : RegIx) : (s.advanceI x).dt = s.dt := rfl
@[simp] theorem State.advanceI_st (x : RegIx) : (s.advanceI x).st = s.st := rfl
@[simp] theorem State.advanceI_fb (x : RegIx) : (s.advanceI x).fb = s.fb := rfl
@[simp] theorem State.advanceI_waitValid (x : RegIx) : (s.advanceI x).waitValid = s.waitValid := rfl
@[simp] theorem State.advanceI_waitReg (x : RegIx) : (s.advanceI x).waitReg = s.waitReg := rfl
@[simp] theorem State.advanceI_div (x : RegIx) : (s.advanceI x).div = s.div := rfl
@[simp] theorem State.advanceI_mode (x : RegIx) : (s.advanceI x).mode = s.mode := rfl
@[simp] theorem State.advanceI_faultCode (x : RegIx) : (s.advanceI x).faultCode = s.faultCode := rfl
@[simp] theorem State.advanceI_faultAddr (x : RegIx) : (s.advanceI x).faultAddr = s.faultAddr := rfl
@[simp] theorem State.advanceI_faultWord (x : RegIx) : (s.advanceI x).faultWord = s.faultWord := rfl
@[simp] theorem State.advanceI_faultInfo (x : RegIx) : (s.advanceI x).faultInfo = s.faultInfo := rfl
@[simp] theorem State.advanceI_cfg (x : RegIx) : (s.advanceI x).cfg = s.cfg := rfl
@[simp] theorem State.advanceI_mem (x : RegIx) : (s.advanceI x).mem = s.mem := rfl
@[simp] theorem State.advanceI_displayChanged (x : RegIx) : (s.advanceI x).displayChanged = s.displayChanged := rfl
@[simp] theorem State.advanceI_keys (x : RegIx) : (s.advanceI x).keys = s.keys := rfl
@[simp] theorem State.advanceI_rnd (x : RegIx) : (s.advanceI x).rnd = s.rnd := rfl
@[simp] theorem State.advanceI_hostInputs (x : RegIx) : (s.advanceI x).hostInputs = s.hostInputs := rfl
@[simp] theorem State.advanceI_drawCount (x : RegIx) : (s.advanceI x).drawCount = s.drawCount := rfl

@[simp] theorem State.beginStep_v (e : Nat) : (s.beginStep e).v = s.v := rfl
@[simp] theorem State.beginStep_i (e : Nat) : (s.beginStep e).i = s.i := rfl
@[simp] theorem State.beginStep_pc (e : Nat) : (s.beginStep e).pc = s.pc := rfl
@[simp] theorem State.beginStep_sp (e : Nat) : (s.beginStep e).sp = s.sp := rfl
@[simp] theorem State.beginStep_stack (e : Nat) : (s.beginStep e).stack = s.stack := rfl
@[simp] theorem State.beginStep_dt (e : Nat) : (s.beginStep e).dt = s.dt := rfl
@[simp] theorem State.beginStep_st (e : Nat) : (s.beginStep e).st = s.st := rfl
@[simp] theorem State.beginStep_fb (e : Nat) : (s.beginStep e).fb = s.fb := rfl
@[simp] theorem State.beginStep_waitValid (e : Nat) : (s.beginStep e).waitValid = s.waitValid := rfl
@[simp] theorem State.beginStep_waitReg (e : Nat) : (s.beginStep e).waitReg = s.waitReg := rfl
@[simp] theorem State.beginStep_div (e : Nat) : (s.beginStep e).div = min (s.div + e) Config.tickPeriod := rfl
@[simp] theorem State.beginStep_mode (e : Nat) : (s.beginStep e).mode = s.mode := rfl
@[simp] theorem State.beginStep_faultCode (e : Nat) : (s.beginStep e).faultCode = s.faultCode := rfl
@[simp] theorem State.beginStep_faultAddr (e : Nat) : (s.beginStep e).faultAddr = s.faultAddr := rfl
@[simp] theorem State.beginStep_faultWord (e : Nat) : (s.beginStep e).faultWord = s.faultWord := rfl
@[simp] theorem State.beginStep_faultInfo (e : Nat) : (s.beginStep e).faultInfo = s.faultInfo := rfl
@[simp] theorem State.beginStep_cfg (e : Nat) : (s.beginStep e).cfg = s.cfg := rfl
@[simp] theorem State.beginStep_mem (e : Nat) : (s.beginStep e).mem = s.mem := rfl
@[simp] theorem State.beginStep_displayChanged (e : Nat) : (s.beginStep e).displayChanged = false := rfl
@[simp] theorem State.beginStep_keys (e : Nat) : (s.beginStep e).keys = s.keys := rfl
@[simp] theorem State.beginStep_rnd (e : Nat) : (s.beginStep e).rnd = s.rnd := rfl
@[simp] theorem State.beginStep_hostInputs (e : Nat) : (s.beginStep e).hostInputs = s.hostInputs := rfl
@[simp] theorem State.beginStep_drawCount (e : Nat) : (s.beginStep e).drawCount = s.drawCount := rfl

@[simp] theorem State.sample_v (inp : StepInput) : (s.sample inp).v = s.v := rfl
@[simp] theorem State.sample_i (inp : StepInput) : (s.sample inp).i = s.i := rfl
@[simp] theorem State.sample_pc (inp : StepInput) : (s.sample inp).pc = s.pc := rfl
@[simp] theorem State.sample_sp (inp : StepInput) : (s.sample inp).sp = s.sp := rfl
@[simp] theorem State.sample_stack (inp : StepInput) : (s.sample inp).stack = s.stack := rfl
@[simp] theorem State.sample_dt (inp : StepInput) : (s.sample inp).dt = s.dt := rfl
@[simp] theorem State.sample_st (inp : StepInput) : (s.sample inp).st = s.st := rfl
@[simp] theorem State.sample_fb (inp : StepInput) : (s.sample inp).fb = s.fb := rfl
@[simp] theorem State.sample_waitValid (inp : StepInput) : (s.sample inp).waitValid = s.waitValid := rfl
@[simp] theorem State.sample_waitReg (inp : StepInput) : (s.sample inp).waitReg = s.waitReg := rfl
@[simp] theorem State.sample_div (inp : StepInput) : (s.sample inp).div = s.div := rfl
@[simp] theorem State.sample_mode (inp : StepInput) : (s.sample inp).mode = s.mode := rfl
@[simp] theorem State.sample_faultCode (inp : StepInput) : (s.sample inp).faultCode = s.faultCode := rfl
@[simp] theorem State.sample_faultAddr (inp : StepInput) : (s.sample inp).faultAddr = s.faultAddr := rfl
@[simp] theorem State.sample_faultWord (inp : StepInput) : (s.sample inp).faultWord = s.faultWord := rfl
@[simp] theorem State.sample_faultInfo (inp : StepInput) : (s.sample inp).faultInfo = s.faultInfo := rfl
@[simp] theorem State.sample_cfg (inp : StepInput) : (s.sample inp).cfg = s.cfg := rfl
@[simp] theorem State.sample_mem (inp : StepInput) : (s.sample inp).mem = s.mem := rfl
@[simp] theorem State.sample_displayChanged (inp : StepInput) : (s.sample inp).displayChanged = s.displayChanged := rfl
@[simp] theorem State.sample_keys (inp : StepInput) : (s.sample inp).keys = inp.keys := rfl
@[simp] theorem State.sample_rnd (inp : StepInput) : (s.sample inp).rnd = inp.rnd := rfl
@[simp] theorem State.sample_hostInputs (inp : StepInput) : (s.sample inp).hostInputs = s.hostInputs := rfl
@[simp] theorem State.sample_drawCount (inp : StepInput) : (s.sample inp).drawCount = s.drawCount := rfl

@[simp] theorem State.tick_v : (s.tick).v = s.v := rfl
@[simp] theorem State.tick_i : (s.tick).i = s.i := rfl
@[simp] theorem State.tick_pc : (s.tick).pc = s.pc := rfl
@[simp] theorem State.tick_sp : (s.tick).sp = s.sp := rfl
@[simp] theorem State.tick_stack : (s.tick).stack = s.stack := rfl
@[simp] theorem State.tick_dt : (s.tick).dt = if s.tickDue then countDown s.dt else s.dt := rfl
@[simp] theorem State.tick_st : (s.tick).st = if s.tickDue then countDown s.st else s.st := rfl
@[simp] theorem State.tick_fb : (s.tick).fb = s.fb := rfl
@[simp] theorem State.tick_waitValid : (s.tick).waitValid = s.waitValid := rfl
@[simp] theorem State.tick_waitReg : (s.tick).waitReg = s.waitReg := rfl
@[simp] theorem State.tick_div : (s.tick).div = if s.tickDue then 0 else s.div := rfl
@[simp] theorem State.tick_mode : (s.tick).mode = s.mode := rfl
@[simp] theorem State.tick_faultCode : (s.tick).faultCode = s.faultCode := rfl
@[simp] theorem State.tick_faultAddr : (s.tick).faultAddr = s.faultAddr := rfl
@[simp] theorem State.tick_faultWord : (s.tick).faultWord = s.faultWord := rfl
@[simp] theorem State.tick_faultInfo : (s.tick).faultInfo = s.faultInfo := rfl
@[simp] theorem State.tick_cfg : (s.tick).cfg = s.cfg := rfl
@[simp] theorem State.tick_mem : (s.tick).mem = s.mem := rfl
@[simp] theorem State.tick_displayChanged : (s.tick).displayChanged = s.displayChanged := rfl
@[simp] theorem State.tick_keys : (s.tick).keys = s.keys := rfl
@[simp] theorem State.tick_rnd : (s.tick).rnd = s.rnd := rfl
@[simp] theorem State.tick_hostInputs : (s.tick).hostInputs = s.hostInputs := rfl
@[simp] theorem State.tick_drawCount : (s.tick).drawCount = s.drawCount := rfl

@[simp] theorem State.takeInput_v : (s.takeInput).v = s.v := rfl
@[simp] theorem State.takeInput_i : (s.takeInput).i = s.i := rfl
@[simp] theorem State.takeInput_pc : (s.takeInput).pc = s.pc := rfl
@[simp] theorem State.takeInput_sp : (s.takeInput).sp = s.sp := rfl
@[simp] theorem State.takeInput_stack : (s.takeInput).stack = s.stack := rfl
@[simp] theorem State.takeInput_dt : (s.takeInput).dt = s.dt := rfl
@[simp] theorem State.takeInput_st : (s.takeInput).st = s.st := rfl
@[simp] theorem State.takeInput_fb : (s.takeInput).fb = s.fb := rfl
@[simp] theorem State.takeInput_waitValid : (s.takeInput).waitValid = s.waitValid := rfl
@[simp] theorem State.takeInput_waitReg : (s.takeInput).waitReg = s.waitReg := rfl
@[simp] theorem State.takeInput_div : (s.takeInput).div = s.div := rfl
@[simp] theorem State.takeInput_mode : (s.takeInput).mode = s.mode := rfl
@[simp] theorem State.takeInput_faultCode : (s.takeInput).faultCode = s.faultCode := rfl
@[simp] theorem State.takeInput_faultAddr : (s.takeInput).faultAddr = s.faultAddr := rfl
@[simp] theorem State.takeInput_faultWord : (s.takeInput).faultWord = s.faultWord := rfl
@[simp] theorem State.takeInput_faultInfo : (s.takeInput).faultInfo = s.faultInfo := rfl
@[simp] theorem State.takeInput_cfg : (s.takeInput).cfg = s.cfg := rfl
@[simp] theorem State.takeInput_mem : (s.takeInput).mem = s.mem := rfl
@[simp] theorem State.takeInput_displayChanged : (s.takeInput).displayChanged = s.displayChanged := rfl
@[simp] theorem State.takeInput_keys : (s.takeInput).keys = s.keys := rfl
@[simp] theorem State.takeInput_rnd : (s.takeInput).rnd = s.rnd := rfl
@[simp] theorem State.takeInput_hostInputs : (s.takeInput).hostInputs = s.hostInputs.tail := rfl
@[simp] theorem State.takeInput_drawCount : (s.takeInput).drawCount = if s.hostInputs.isEmpty then s.drawCount + 1 else s.drawCount := rfl

@[simp] theorem State.storeBytes_v (a : Nat) (bs : List Byte) : (s.storeBytes a bs).v = s.v := rfl
@[simp] theorem State.storeBytes_i (a : Nat) (bs : List Byte) : (s.storeBytes a bs).i = s.i := rfl
@[simp] theorem State.storeBytes_pc (a : Nat) (bs : List Byte) : (s.storeBytes a bs).pc = s.pc := rfl
@[simp] theorem State.storeBytes_sp (a : Nat) (bs : List Byte) : (s.storeBytes a bs).sp = s.sp := rfl
@[simp] theorem State.storeBytes_stack (a : Nat) (bs : List Byte) : (s.storeBytes a bs).stack = s.stack := rfl
@[simp] theorem State.storeBytes_dt (a : Nat) (bs : List Byte) : (s.storeBytes a bs).dt = s.dt := rfl
@[simp] theorem State.storeBytes_st (a : Nat) (bs : List Byte) : (s.storeBytes a bs).st = s.st := rfl
@[simp] theorem State.storeBytes_fb (a : Nat) (bs : List Byte) : (s.storeBytes a bs).fb = s.fb := rfl
@[simp] theorem State.storeBytes_waitValid (a : Nat) (bs : List Byte) : (s.storeBytes a bs).waitValid = s.waitValid := rfl
@[simp] theorem State.storeBytes_waitReg (a : Nat) (bs : List Byte) : (s.storeBytes a bs).waitReg = s.waitReg := rfl
@[simp] theorem State.storeBytes_div (a : Nat) (bs : List Byte) : (s.storeBytes a bs).div = s.div := rfl
@[simp] theorem State.storeBytes_mode (a : Nat) (bs : List Byte) : (s.storeBytes a bs).mode = s.mode := rfl
@[simp] theorem State.storeBytes_faultCode (a : Nat) (bs : List Byte) : (s.storeBytes a bs).faultCode = s.faultCode := rfl
@[simp] theorem State.storeBytes_faultAddr (a : Nat) (bs : List Byte) : (s.storeBytes a bs).faultAddr = s.faultAddr := rfl
@[simp] theorem State.storeBytes_faultWord (a : Nat) (bs : List Byte) : (s.storeBytes a bs).faultWord = s.faultWord := rfl
@[simp] theorem State.storeBytes_faultInfo (a : Nat) (bs : List Byte) : (s.storeBytes a bs).faultInfo = s.faultInfo := rfl
@[simp] theorem State.storeBytes_cfg (a : Nat) (bs : List Byte) : (s.storeBytes a bs).cfg = s.cfg := rfl
@[simp] theorem State.storeBytes_mem (a : Nat) (bs : List Byte) : (s.storeBytes a bs).mem = s.mem.writeBytes a bs := rfl
@[simp] theorem State.storeBytes_displayChanged (a : Nat) (bs : List Byte) : (s.storeBytes a bs).displayChanged = s.displayChanged := rfl
@[simp] theorem State.storeBytes_keys (a : Nat) (bs : List Byte) : (s.storeBytes a bs).keys = s.keys := rfl
@[simp] theorem State.storeBytes_rnd (a : Nat) (bs : List Byte) : (s.storeBytes a bs).rnd = s.rnd := rfl
@[simp] theorem State.storeBytes_hostInputs (a : Nat) (bs : List Byte) : (s.storeBytes a bs).hostInputs = s.hostInputs := rfl
@[simp] theorem State.storeBytes_drawCount (a : Nat) (bs : List Byte) : (s.storeBytes a bs).drawCount = s.drawCount := rfl

@[simp] theorem State.writeLogic_i (x : RegIx) (b : Byte) : (s.writeLogic x b).i = s.i := by unfold State.writeLogic; split <;> rfl
@[simp] theorem State.writeLogic_pc (x : RegIx) (b : Byte) : (s.writeLogic x b).pc = s.pc := by unfold State.writeLogic; split <;> rfl
@[simp] theorem State.writeLogic_sp (x : RegIx) (b : Byte) : (s.writeLogic x b).sp = s.sp := by unfold State.writeLogic; split <;> rfl
@[simp] theorem State.writeLogic_stack (x : RegIx) (b : Byte) : (s.writeLogic x b).stack = s.stack := by unfold State.writeLogic; split <;> rfl
@[simp] theorem State.writeLogic_dt (x : RegIx) (b : Byte) : (s.writeLogic x b).dt = s.dt := by unfold State.writeLogic; split <;> rfl
@[simp] theorem State.writeLogic_st (x : RegIx) (b : Byte) : (s.writeLogic x b).st = s.st := by unfold State.writeLogic; split <;> rfl
@[simp] theorem State.writeLogic_fb (x : RegIx) (b : Byte) : (s.writeLogic x b).fb = s.fb := by unfold State.writeLogic; split <;> rfl
@[simp] theorem State.writeLogic_waitValid (x : RegIx) (b : Byte) : (s.writeLogic x b).waitValid = s.waitValid := by unfold State.writeLogic; split <;> rfl
@[simp] theorem State.writeLogic_waitReg (x : RegIx) (b : Byte) : (s.writeLogic x b).waitReg = s.waitReg := by unfold State.writeLogic; split <;> rfl
@[simp] theorem State.writeLogic_div (x : RegIx) (b : Byte) : (s.writeLogic x b).div = s.div := by unfold State.writeLogic; split <;> rfl
@[simp] theorem State.writeLogic_mode (x : RegIx) (b : Byte) : (s.writeLogic x b).mode = s.mode := by unfold State.writeLogic; split <;> rfl
@[simp] theorem State.writeLogic_faultCode (x : RegIx) (b : Byte) : (s.writeLogic x b).faultCode = s.faultCode := by unfold State.writeLogic; split <;> rfl
@[simp] theorem State.writeLogic_faultAddr (x : RegIx) (b : Byte) : (s.writeLogic x b).faultAddr = s.faultAddr := by unfold State.writeLogic; split <;> rfl
@[simp] theorem State.writeLogic_faultWord (x : RegIx) (b : Byte) : (s.writeLogic x b).faultWord = s.faultWord := by unfold State.writeLogic; split <;> rfl
@[simp] theorem State.writeLogic_faultInfo (x : RegIx) (b : Byte) : (s.writeLogic x b).faultInfo = s.faultInfo := by unfold State.writeLogic; split <;> rfl
@[simp] theorem State.writeLogic_cfg (x : RegIx) (b : Byte) : (s.writeLogic x b).cfg = s.cfg := by unfold State.writeLogic; split <;> rfl
@[simp] theorem State.writeLogic_mem (x : RegIx) (b : Byte) : (s.writeLogic x b).mem = s.mem := by unfold State.writeLogic; split <;> rfl
@[simp] theorem State.writeLogic_displayChanged (x : RegIx) (b : Byte) : (s.writeLogic x b).displayChanged = s.displayChanged := by unfold State.writeLogic; split <;> rfl
@[simp] theorem State.writeLogic_keys (x : RegIx) (b : Byte) : (s.writeLogic x b).keys = s.keys := by unfold State.writeLogic; split <;> rfl
@[simp] theorem State.writeLogic_rnd (x : RegIx) (b : Byte) : (s.writeLogic x b).rnd = s.rnd := by unfold State.writeLogic; split <;> rfl
@[simp] theorem State.writeLogic_hostInputs (x : RegIx) (b : Byte) : (s.writeLogic x b).hostInputs = s.hostInputs := by unfold State.writeLogic; split <;> rfl
@[simp] theorem State.writeLogic_drawCount (x : RegIx) (b : Byte) : (s.writeLogic x b).drawCount = s.drawCount := by unfold State.writeLogic; split <;> rfl

@[simp] theorem State.writeResultFlag_i (x : RegIx) (b g : Byte) : (s.writeResultFlag x b g).i = s.i := rfl
@[simp] theorem State.writeResultFlag_pc (x : RegIx) (b g : Byte) : (s.writeResultFlag x b g).pc = s.pc := rfl
@[simp] theorem State.writeResultFlag_sp (x : RegIx) (b g : Byte) : (s.writeResultFlag x b g).sp = s.sp := rfl
@[simp] theorem State.writeResultFlag_stack (x : RegIx) (b g : Byte) : (s.writeResultFlag x b g).stack = s.stack := rfl
@[simp] theorem State.writeResultFlag_dt (x : RegIx) (b g : Byte) : (s.writeResultFlag x b g).dt = s.dt := rfl
@[simp] theorem State.writeResultFlag_st (x : RegIx) (b g : Byte) : (s.writeResultFlag x b g).st = s.st := rfl
@[simp] theorem State.writeResultFlag_fb (x : RegIx) (b g : Byte) : (s.writeResultFlag x b g).fb = s.fb := rfl
@[simp] theorem State.writeResultFlag_waitValid (x : RegIx) (b g : Byte) : (s.writeResultFlag x b g).waitValid = s.waitValid := rfl
@[simp] theorem State.writeResultFlag_waitReg (x : RegIx) (b g : Byte) : (s.writeResultFlag x b g).waitReg = s.waitReg := rfl
@[simp] theorem State.writeResultFlag_div (x : RegIx) (b g : Byte) : (s.writeResultFlag x b g).div = s.div := rfl
@[simp] theorem State.writeResultFlag_mode (x : RegIx) (b g : Byte) : (s.writeResultFlag x b g).mode = s.mode := rfl
@[simp] theorem State.writeResultFlag_faultCode (x : RegIx) (b g : Byte) : (s.writeResultFlag x b g).faultCode = s.faultCode := rfl
@[simp] theorem State.writeResultFlag_faultAddr (x : RegIx) (b g : Byte) : (s.writeResultFlag x b g).faultAddr = s.faultAddr := rfl
@[simp] theorem State.writeResultFlag_faultWord (x : RegIx) (b g : Byte) : (s.writeResultFlag x b g).faultWord = s.faultWord := rfl
@[simp] theorem State.writeResultFlag_faultInfo (x : RegIx) (b g : Byte) : (s.writeResultFlag x b g).faultInfo = s.faultInfo := rfl
@[simp] theorem State.writeResultFlag_cfg (x : RegIx) (b g : Byte) : (s.writeResultFlag x b g).cfg = s.cfg := rfl
@[simp] theorem State.writeResultFlag_mem (x : RegIx) (b g : Byte) : (s.writeResultFlag x b g).mem = s.mem := rfl
@[simp] theorem State.writeResultFlag_displayChanged (x : RegIx) (b g : Byte) : (s.writeResultFlag x b g).displayChanged = s.displayChanged := rfl
@[simp] theorem State.writeResultFlag_keys (x : RegIx) (b g : Byte) : (s.writeResultFlag x b g).keys = s.keys := rfl
@[simp] theorem State.writeResultFlag_rnd (x : RegIx) (b g : Byte) : (s.writeResultFlag x b g).rnd = s.rnd := rfl
@[simp] theorem State.writeResultFlag_hostInputs (x : RegIx) (b g : Byte) : (s.writeResultFlag x b g).hostInputs = s.hostInputs := rfl
@[simp] theorem State.writeResultFlag_drawCount (x : RegIx) (b g : Byte) : (s.writeResultFlag x b g).drawCount = s.drawCount := rfl

end Sys2Proof.Machine
end

