-- ==== Sys2Proof/Laws/Regs.lean ====
section
/-!
SUPPORT. Reading a general register after each named update (10_state.md R20), and the batch load.
-/

namespace Sys2Proof.Machine

theorem regIx_eq_of_toNat {a b : RegIx} (h : a.toNat = b.toNat) : a = b := BitVec.eq_of_toNat_eq h

/-- Registers are read through `v` alone. -/
theorem readV_congr {s t : State} (h : t.v = s.v) (r : RegIx) : t.readV r = s.readV r := by
  simp only [State.readV, h]

theorem readV_writeV (s : State) (x r : RegIx) (b : Byte) :
    (s.writeV x b).readV r = if r = x then b else s.readV r := by
  simp only [State.readV, State.writeV_v, Vector.getElem_set]
  by_cases h : r = x
  · simp [h]
  · have hn : ¬ x.toNat = r.toNat := fun e => h (regIx_eq_of_toNat e.symm)
    simp [h, hn]

@[simp] theorem readV_writeV_same (s : State) (x : RegIx) (b : Byte) : (s.writeV x b).readV x = b := by
  simp [readV_writeV]

@[simp] theorem readV_writeV_other (s : State) {x r : RegIx} (b : Byte) (h : r ≠ x) :
    (s.writeV x b).readV r = s.readV r := by
  simp [readV_writeV, h]

/-- The flag is written last and wins (42_alu.md R160). -/
theorem readV_writeResultFlag (s : State) (x r : RegIx) (b f : Byte) :
    (s.writeResultFlag x b f).readV r = if r = regF then f else if r = x then b else s.readV r := by
  simp only [State.writeResultFlag, readV_writeV]

variable (s : State) (r : RegIx)

@[simp] theorem readV_setPc (a : Word) : (s.setPc a).readV r = s.readV r := rfl
@[simp] theorem readV_setI (a : Word) : (s.setI a).readV r = s.readV r := rfl
@[simp] theorem readV_setDT (b : Byte) : (s.setDT b).readV r = s.readV r := rfl
@[simp] theorem readV_setST (b : Byte) : (s.setST b).readV r = s.readV r := rfl
@[simp] theorem readV_setMem (m : Memory) : (s.setMem m).readV r = s.readV r := rfl
@[simp] theorem readV_setFrame (f : Frame) : (s.setFrame f).readV r = s.readV r := rfl
@[simp] theorem readV_setWait (x : RegIx) : (s.setWait x).readV r = s.readV r := rfl
@[simp] theorem readV_clearWait : s.clearWait.readV r = s.readV r := rfl
@[simp] theorem readV_skipIf (c : Bool) : (s.skipIf c).readV r = s.readV r := rfl
@[simp] theorem readV_raise (k : Fault) (a w n : Word) : (s.raise k a w n).readV r = s.readV r := rfl
@[simp] theorem readV_push (w : Word) (h : s.sp.val < stackDepth) : (s.push w h).readV r = s.readV r := rfl
@[simp] theorem readV_dropTop : s.dropTop.readV r = s.readV r := rfl
@[simp] theorem readV_advanceI (x : RegIx) : (s.advanceI x).readV r = s.readV r := rfl
@[simp] theorem readV_beginStep (e : Nat) : (s.beginStep e).readV r = s.readV r := rfl
@[simp] theorem readV_sample (inp : StepInput) : (s.sample inp).readV r = s.readV r := rfl
@[simp] theorem readV_tick : s.tick.readV r = s.readV r := rfl
@[simp] theorem readV_takeInput : s.takeInput.readV r = s.readV r := rfl
@[simp] theorem readV_storeBytes (a : Nat) (bs : List Byte) : (s.storeBytes a bs).readV r = s.readV r := rfl

/-- The batch load, for any base state: register `k` gets the byte at `I + k`, the registers from `n` up keep theirs. -/
theorem loadLowRegs_spec (n : Nat) (hn : n ≤ 16) :
    (s.loadLowRegs n).readV r = if r.toNat < n then s.readByte (s.i.toNat + r.toNat) else s.readV r := by
  have key : ∀ n, n ≤ 16 → ∀ t : State, ((List.range n).foldl
      (fun t k => t.writeV (BitVec.ofNat 4 k) (s.readByte (s.i.toNat + k))) t).readV r
        = if r.toNat < n then s.readByte (s.i.toNat + r.toNat) else t.readV r := by
    intro n
    induction n with
    | zero => intro _ t; simp
    | succ n ih =>
      intro hle t
      rw [List.range_succ, List.foldl_append, List.foldl_cons, List.foldl_nil, readV_writeV, ih (by omega)]
      have hr : r = BitVec.ofNat 4 n ↔ r.toNat = n := by
        constructor
        · intro e; rw [e]; simp; omega
        · intro e; exact regIx_eq_of_toNat (by simp; omega)
      by_cases e : r.toNat = n
      · simp [hr, e]
      · simp only [hr, e, if_false]
        by_cases l : r.toNat < n
        · simp [l, Nat.lt_succ_of_lt l]
        · have : ¬ r.toNat < n + 1 := by omega
          simp [l, this]
  exact key n hn s

/-- The batch load writes general registers and nothing else. -/
theorem loadLowRegs_only_v (n : Nat) : ∃ v, s.loadLowRegs n = { s with v := v } := by
  have key : ∀ l : List Nat, ∀ t : State, (∃ v, t = { s with v := v }) →
      ∃ v, l.foldl (fun t k => t.writeV (BitVec.ofNat 4 k) (s.readByte (s.i.toNat + k))) t = { s with v := v } := by
    intro l
    induction l with
    | nil => intro t h; exact h
    | cons k l ih =>
      rintro t ⟨v, rfl⟩
      exact ih _ ⟨_, rfl⟩
  exact key _ s ⟨s.v, rfl⟩

@[simp] theorem State.loadLowRegs_i (n : Nat) : (s.loadLowRegs n).i = s.i := by obtain ⟨v, h⟩ := loadLowRegs_only_v s n; rw [h]
@[simp] theorem State.loadLowRegs_pc (n : Nat) : (s.loadLowRegs n).pc = s.pc := by obtain ⟨v, h⟩ := loadLowRegs_only_v s n; rw [h]
@[simp] theorem State.loadLowRegs_sp (n : Nat) : (s.loadLowRegs n).sp = s.sp := by obtain ⟨v, h⟩ := loadLowRegs_only_v s n; rw [h]
@[simp] theorem State.loadLowRegs_stack (n : Nat) : (s.loadLowRegs n).stack = s.stack := by obtain ⟨v, h⟩ := loadLowRegs_only_v s n; rw [h]
@[simp] theorem State.loadLowRegs_dt (n : Nat) : (s.loadLowRegs n).dt = s.dt := by obtain ⟨v, h⟩ := loadLowRegs_only_v s n; rw [h]
@[simp] theorem State.loadLowRegs_st (n : Nat) : (s.loadLowRegs n).st = s.st := by obtain ⟨v, h⟩ := loadLowRegs_only_v s n; rw [h]
@[simp] theorem State.loadLowRegs_fb (n : Nat) : (s.loadLowRegs n).fb = s.fb := by obtain ⟨v, h⟩ := loadLowRegs_only_v s n; rw [h]
@[simp] theorem State.loadLowRegs_waitValid (n : Nat) : (s.loadLowRegs n).waitValid = s.waitValid := by obtain ⟨v, h⟩ := loadLowRegs_only_v s n; rw [h]
@[simp] theorem State.loadLowRegs_waitReg (n : Nat) : (s.loadLowRegs n).waitReg = s.waitReg := by obtain ⟨v, h⟩ := loadLowRegs_only_v s n; rw [h]
@[simp] theorem State.loadLowRegs_div (n : Nat) : (s.loadLowRegs n).div = s.div := by obtain ⟨v, h⟩ := loadLowRegs_only_v s n; rw [h]
@[simp] theorem State.loadLowRegs_mode (n : Nat) : (s.loadLowRegs n).mode = s.mode := by obtain ⟨v, h⟩ := loadLowRegs_only_v s n; rw [h]
@[simp] theorem State.loadLowRegs_faultCode (n : Nat) : (s.loadLowRegs n).faultCode = s.faultCode := by obtain ⟨v, h⟩ := loadLowRegs_only_v s n; rw [h]
@[simp] theorem State.loadLowRegs_faultAddr (n : Nat) : (s.loadLowRegs n).faultAddr = s.faultAddr := by obtain ⟨v, h⟩ := loadLowRegs_only_v s n; rw [h]
@[simp] theorem State.loadLowRegs_faultWord (n : Nat) : (s.loadLowRegs n).faultWord = s.faultWord := by obtain ⟨v, h⟩ := loadLowRegs_only_v s n; rw [h]
@[simp] theorem State.loadLowRegs_faultInfo (n : Nat) : (s.loadLowRegs n).faultInfo = s.faultInfo := by obtain ⟨v, h⟩ := loadLowRegs_only_v s n; rw [h]
@[simp] theorem State.loadLowRegs_cfg (n : Nat) : (s.loadLowRegs n).cfg = s.cfg := by obtain ⟨v, h⟩ := loadLowRegs_only_v s n; rw [h]
@[simp] theorem State.loadLowRegs_mem (n : Nat) : (s.loadLowRegs n).mem = s.mem := by obtain ⟨v, h⟩ := loadLowRegs_only_v s n; rw [h]
@[simp] theorem State.loadLowRegs_displayChanged (n : Nat) : (s.loadLowRegs n).displayChanged = s.displayChanged := by obtain ⟨v, h⟩ := loadLowRegs_only_v s n; rw [h]
@[simp] theorem State.loadLowRegs_keys (n : Nat) : (s.loadLowRegs n).keys = s.keys := by obtain ⟨v, h⟩ := loadLowRegs_only_v s n; rw [h]
@[simp] theorem State.loadLowRegs_rnd (n : Nat) : (s.loadLowRegs n).rnd = s.rnd := by obtain ⟨v, h⟩ := loadLowRegs_only_v s n; rw [h]
@[simp] theorem State.loadLowRegs_hostInputs (n : Nat) : (s.loadLowRegs n).hostInputs = s.hostInputs := by obtain ⟨v, h⟩ := loadLowRegs_only_v s n; rw [h]
@[simp] theorem State.loadLowRegs_drawCount (n : Nat) : (s.loadLowRegs n).drawCount = s.drawCount := by obtain ⟨v, h⟩ := loadLowRegs_only_v s n; rw [h]

/-- `V[0]` to `V[n - 1]` in order (45_index_memory.md R204). -/
theorem lowRegs_get (n k : Nat) (h : k < n) : (s.lowRegs n)[k]? = some (s.readV (BitVec.ofNat 4 k)) := by
  simp [State.lowRegs, h]

@[simp] theorem lowRegs_length (n : Nat) : (s.lowRegs n).length = n := by simp [State.lowRegs]

end Sys2Proof.Machine
end

