-- ==== Sys2Proof/Laws/Frames.lean ====
section
/-!
SUPPORT. The frame of every named update: what it leaves unchanged, and how frames compose.
-/

namespace Sys2Proof.Machine

theorem KeptBut.refl (s : State) : KeptBut [] [] s s :=
  ⟨fun _ _ => rfl, fun p _ => by cases p <;> simp [Part.Same]⟩

theorem Part.Same.trans {p : Part} {s t u : State} (h : p.Same s t) (k : p.Same t u) : p.Same s u := by
  cases p <;> simp_all [Part.Same]

theorem KeptBut.trans {r q : List RegIx} {a b : List Part} {s t u : State} (h : KeptBut r a s t) (k : KeptBut q b t u) :
    KeptBut (r ++ q) (a ++ b) s u := by
  refine ⟨fun x hx => ?_, fun p hp => ?_⟩
  · rw [List.mem_append, not_or] at hx
    exact (k.1 x hx.2).trans (h.1 x hx.1)
  · rw [List.mem_append, not_or] at hp
    exact (h.2 p hp.1).trans (k.2 p hp.2)

/-- A frame that excepts more says less. -/
theorem KeptBut.mono {r q : List RegIx} {a b : List Part} {s t : State} (h : KeptBut r a s t) (hr : ∀ x ∈ r, x ∈ q)
    (ha : ∀ p ∈ a, p ∈ b) : KeptBut q b s t :=
  ⟨fun x hx => h.1 x (fun m => hx (hr x m)), fun p hp => h.2 p (fun m => hp (ha p m))⟩

variable (s : State)

theorem kept_writeV (x : RegIx) (b : Byte) : KeptBut [x] [] s (s.writeV x b) :=
  ⟨fun r h => readV_writeV_other s b (by simpa using h), fun p _ => by cases p <;> simp [Part.Same, State.readByte]⟩

theorem kept_writeResultFlag (x : RegIx) (b f : Byte) : KeptBut [x, regF] [] s (s.writeResultFlag x b f) :=
  (kept_writeV s x b).trans (kept_writeV _ regF f)

/-- The logic instructions write `VF` only where the strap says so (42_alu.md R164). -/
theorem kept_writeLogic (x : RegIx) (b : Byte) :
    KeptBut (if s.cfg.vfResetOnLogic then [x, regF] else [x]) [] s (s.writeLogic x b) := by
  unfold State.writeLogic
  split
  · exact kept_writeResultFlag s x b 0#8
  · exact kept_writeV s x b

theorem kept_setPc (a : Word) : KeptBut [] [.pc] s (s.setPc a) :=
  ⟨fun _ _ => rfl, fun p h => by cases p <;> simp_all [Part.Same, State.readByte]⟩

theorem kept_skipIf (c : Bool) : KeptBut [] [.pc] s (s.skipIf c) :=
  ⟨fun _ _ => rfl, fun p h => by cases p <;> simp_all [Part.Same, State.readByte]⟩

theorem kept_setI (a : Word) : KeptBut [] [.index] s (s.setI a) :=
  ⟨fun _ _ => rfl, fun p h => by cases p <;> simp_all [Part.Same, State.readByte]⟩

theorem kept_advanceI (x : RegIx) : KeptBut [] [.index] s (s.advanceI x) :=
  ⟨fun _ _ => rfl, fun p h => by cases p <;> simp_all [Part.Same, State.readByte]⟩

/-- `I` advances only where the strap says so (45_index_memory.md R204). -/
theorem kept_advanceI_strap (x : RegIx) :
    KeptBut [] (if s.cfg.incrementIndexOnStoreLoad then [.index] else []) s (s.advanceI x) := by
  split
  · exact kept_advanceI s x
  · rename_i h
    have : s.advanceI x = s := by simp [State.advanceI, h]
    rw [this]; exact KeptBut.refl s

theorem kept_setDT (b : Byte) : KeptBut [] [.delay] s (s.setDT b) :=
  ⟨fun _ _ => rfl, fun p h => by cases p <;> simp_all [Part.Same, State.readByte]⟩

theorem kept_setST (b : Byte) : KeptBut [] [.sound] s (s.setST b) :=
  ⟨fun _ _ => rfl, fun p h => by cases p <;> simp_all [Part.Same, State.readByte]⟩

theorem kept_setMem (m : Memory) : KeptBut [] [.memory] s (s.setMem m) :=
  ⟨fun _ _ => rfl, fun p h => by cases p <;> simp_all [Part.Same]⟩

theorem kept_storeBytes (a : Nat) (bs : List Byte) : KeptBut [] [.memory] s (s.storeBytes a bs) := kept_setMem s _

theorem kept_setFrame (f : Frame) : KeptBut [] [.frame, .changed] s (s.setFrame f) :=
  ⟨fun _ _ => rfl, fun p h => by cases p <;> simp_all [Part.Same, State.readByte]⟩

theorem kept_setWait (x : RegIx) : KeptBut [] [.wait] s (s.setWait x) :=
  ⟨fun _ _ => rfl, fun p h => by cases p <;> simp_all [Part.Same, State.readByte]⟩

theorem kept_clearWait : KeptBut [] [.wait] s s.clearWait :=
  ⟨fun _ _ => rfl, fun p h => by cases p <;> simp_all [Part.Same, State.readByte]⟩

theorem kept_push (w : Word) (h : s.sp.val < stackDepth) : KeptBut [] [.stack] s (s.push w h) :=
  ⟨fun _ _ => rfl, fun p h => by cases p <;> simp_all [Part.Same, State.readByte]⟩

theorem kept_dropTop : KeptBut [] [.stack] s s.dropTop :=
  ⟨fun _ _ => rfl, fun p h => by cases p <;> simp_all [Part.Same, State.readByte]⟩

theorem kept_raise (k : Fault) (a w n : Word) : OnlyFaulted s (s.raise k a w n) :=
  ⟨fun _ _ => rfl, fun p h => by cases p <;> simp_all [Part.Same, State.readByte]⟩

theorem kept_beginStep (e : Nat) : KeptBut [] [.divider, .changed] s (s.beginStep e) :=
  ⟨fun _ _ => rfl, fun p h => by cases p <;> simp_all [Part.Same, State.readByte]⟩

theorem kept_sample (inp : StepInput) : KeptBut [] [.samples] s (s.sample inp) :=
  ⟨fun _ _ => rfl, fun p h => by cases p <;> simp_all [Part.Same, State.readByte]⟩

theorem kept_tick : KeptBut [] [.delay, .sound, .divider] s s.tick :=
  ⟨fun _ _ => rfl, fun p h => by cases p <;> simp_all [Part.Same, State.readByte]⟩

theorem kept_takeInput : KeptBut [] [.host] s s.takeInput :=
  ⟨fun _ _ => rfl, fun p h => by cases p <;> simp_all [Part.Same, State.readByte]⟩

theorem kept_loadLowRegs (n : Nat) (hn : n ≤ 16) :
    KeptBut ((List.range n).map (BitVec.ofNat 4)) [] s (s.loadLowRegs n) := by
  refine ⟨fun r hr => ?_, fun p _ => ?_⟩
  · rw [loadLowRegs_spec s r n hn, if_neg]
    intro hlt
    exact hr (List.mem_map.mpr ⟨r.toNat, List.mem_range.mpr hlt, by simp⟩)
  · obtain ⟨v, hv⟩ := loadLowRegs_only_v s n
    rw [hv]
    cases p <;> simp [Part.Same, State.readByte]

/-- Steps 1 to 3 of a step that fetches change at most these (40_step_and_dispatch.md R120). -/
theorem kept_satisfyWait : KeptBut (if s.waitValid then [s.waitReg] else []) [.wait] s s.satisfyWait := by
  unfold State.satisfyWait
  split
  · exact (kept_writeV s _ _).trans (kept_clearWait _)
  · exact (KeptBut.refl s).mono (by simp) (by simp)

end Sys2Proof.Machine
end

