-- ==== Sys2Proof/Laws/Ops.lean ====
section
/-!
SUPPORT. Everything a shared operation can do, said once: fault entry, the footprint check, the stack, the flags as numbers.
-/

namespace Sys2Proof.Machine

theorem raise_reports (s : State) (k : Fault) (a w n : Word) : Reports (s.raise k a w n) k a w n :=
  ⟨rfl, rfl, rfl, rfl, rfl, rfl⟩

/-- The codes 1 to 4 (60_exceptions.md R210). -/
theorem Fault.code_ne_zero (k : Fault) : k.code ≠ 0#3 := by cases k <;> decide

theorem Fault.code_le (k : Fault) : k.code.toNat ≤ 4 := by cases k <;> decide

theorem raiseIn_eq (s : State) (i : Instr) (k : Fault) (n : Word) :
    s.raiseIn i k n = .next (s.raise k (s.pc - 2#16) (encode i) n) := rfl

/-- `max(a, 0x1000)` (60_exceptions.md R214). -/
theorem lowestBad_toNat (a : Word) : (lowestBad a).toNat = max a.toNat 0x1000 := by
  unfold lowestBad
  split
  · rename_i h
    have : a.toNat ≤ 0x0FFF := by simpa [BitVec.le_def] using h
    simp; omega
  · rename_i h
    have : ¬ a.toNat ≤ 0x0FFF := by simpa [BitVec.le_def] using h
    omega

/-- `fault_info` of an access out of range as the statements spell it (60_exceptions.md R214). -/
theorem lowestBad_eq (a : Word) : lowestBad a = BitVec.ofNat 16 (max a.toNat 0x1000) := by
  apply BitVec.eq_of_toNat_eq
  rw [lowestBad_toNat, BitVec.toNat_ofNat]
  have := a.isLt
  omega

theorem outOfRange_iff (s : State) (n : Nat) : s.outOfRange n = true ↔ 0 < n ∧ 0xFFF < s.i.toNat + n - 1 := by
  simp [State.outOfRange, topAddr]

/-- An access whose footprint lies in memory happens whole (20_memory.md R68). -/
theorem accessing_inRange {s : State} {n : Nat} (h : s.outOfRange n = false) (i : Instr) (done : State) :
    s.accessing i n done = .next done := by simp [State.accessing, h]

/-- An access whose footprint leaves memory only faults (20_memory.md R68, 60_exceptions.md R214). -/
theorem accessing_outOfRange {s : State} {n : Nat} (h : s.outOfRange n = true) (i : Instr) (done : State) :
    s.accessing i n done = .next (s.raise .memRange (s.pc - 2#16) (encode i) (lowestBad s.i)) := by
  simp [State.accessing, h, raiseIn_eq]

/-- Every access answers a next state: the finished one or the faulted one. -/
theorem accessing_cases (s : State) (i : Instr) (n : Nat) (done : State) :
    (s.outOfRange n = false ∧ s.accessing i n done = .next done) ∨
      (s.outOfRange n = true ∧
        s.accessing i n done = .next (s.raise .memRange (s.pc - 2#16) (encode i) (lowestBad s.i))) := by
  cases h : s.outOfRange n
  · exact .inl ⟨rfl, accessing_inRange h i done⟩
  · exact .inr ⟨rfl, accessing_outOfRange h i done⟩

/-- The entry pushed is at the old `SP`, the others keep their value (10_state.md R29). -/
theorem push_entry (s : State) (w : Word) (h : s.sp.val < stackDepth) (j : Nat) :
    (s.push w h).stack[j]? = if j = s.sp.val then some w else s.stack[j]? := by
  rw [State.push_stack]
  by_cases e : j = s.sp.val
  · subst e; simp [h]
  · have : ¬ s.sp.val = j := fun x => e x.symm
    simp [e, this]

theorem topOfStack_eq (s : State) (h : 0 < s.sp.val) :
    s.topOfStack = s.stack[s.sp.val - 1]'(by have := s.sp.isLt; omega) := by
  have : s.sp.val - 1 < stackDepth := by have := s.sp.isLt; omega
  simp [State.topOfStack, this]

theorem sumByte_toNat (p q : Byte) : (sumByte p q).toNat = (p.toNat + q.toNat) % 256 := by simp [sumByte]

theorem diffByte_toNat (p q : Byte) : (diffByte p q).toNat = (p.toNat + 256 - q.toNat) % 256 := by
  have hp := p.isLt
  have hq := q.isLt
  simp only [diffByte, BitVec.toNat_ofInt]
  omega

theorem shiftRight_toNat (b : Byte) : (shiftRight b).toNat = b.toNat / 2 := by
  simp [shiftRight, Nat.shiftRight_eq_div_pow]

theorem shiftLeft_toNat (b : Byte) : (shiftLeft b).toNat = b.toNat * 2 % 256 := by
  simp [shiftLeft, Nat.shiftLeft_eq]

theorem lowBitFlag_toNat (b : Byte) : (lowBitFlag b).toNat = b.toNat % 2 := by
  have : b.getLsbD 0 = decide (b.toNat % 2 = 1) := by simp [BitVec.getLsbD, Nat.testBit_zero]
  rw [lowBitFlag, this]
  rcases Nat.mod_two_eq_zero_or_one b.toNat with h | h <;> simp [flagByte, h]

theorem highBitFlag_toNat (b : Byte) : (highBitFlag b).toNat = b.toNat / 128 := by
  have h := b.isLt
  have : b.getLsbD 7 = decide (b.toNat / 128 = 1) := by
    rw [BitVec.getLsbD, Nat.testBit_eq_decide_div_mod_eq]
    congr 1; apply propext; omega
  rw [highBitFlag, this]
  have : b.toNat / 128 = 0 ∨ b.toNat / 128 = 1 := by omega
  rcases this with h | h <;> simp [flagByte, h]

/-- The decimal digits as numbers (45_index_memory.md R203). -/
theorem bcdDigits_toNat (b : Byte) :
    (bcdDigits b).map BitVec.toNat = [b.toNat / 100, b.toNat / 10 % 10, b.toNat % 10] := by
  simp [bcdDigits]

/-- `Fx55` leaves `V[r]` at `I + r`, for each `r` up to `x` (45_index_memory.md R204). -/
theorem readByte_storeBytes_lowRegs (s : State) {x r : RegIx} (h : r.toNat ≤ x.toNat) :
    (s.storeBytes s.i.toNat (s.lowRegs (x.toNat + 1))).readByte (s.i.toNat + r.toNat) = s.readV r := by
  rw [readByte_storeBytes, if_pos (by simp; omega)]
  simp [lowRegs_get s (x.toNat + 1) r.toNat (by omega)]

/-- `PC <- a + 2` and back: the address of the instruction under way. -/
theorem instrAddr_setPc (s : State) (a : Word) : (s.setPc (a + 2#16)).instrAddr = a := by
  simp [State.instrAddr]

/-- `rst` forgets the core's state, whatever it was (70_reset_and_hazards.md R240). -/
theorem rst_eq (s : State) (straps : Straps) (font program : List Byte) :
    s.rst straps font program =
      { State.resetWith straps font program with hostInputs := s.hostInputs, drawCount := s.drawCount } := rfl

/-- State.reset is the reset with the free straps, the default `FONT` and an empty `PROGRAM` (log entries 3, 5, 6). -/
theorem reset_eq_resetWith : State.resetWith Config.straps glyphFont [] = State.reset := by
  simp only [State.resetWith, Memory.image_default]; rfl

end Sys2Proof.Machine
end

