-- ==== Sys2Proof/Laws/PerInstr.lean ====
section
/-!
SUPPORT. One lemma per instruction of the family WordMatchesRow: the word of an instruction matches, in the opcode table of
30_encoding.md R95, a row of its own mnemonic.
-/

namespace Sys2Proof.Laws.WordMatchesRow

/-- The word of `i` spells a row of the opcode table, and the row has the mnemonic of `i`. -/
def Statement (i : Instr) : Prop := ∃ row ∈ opcodeTable, row.spells (encode i) = true ∧ row.mnemonic = i.mnemonic

/-- A row of the table is found by its place. -/
theorem of_row {i : Instr} (k : Nat) (row : OpcodeRow) (hk : opcodeTable[k]? = some row)
    (hw : encode i &&& row.mask = row.value) (hm : row.mnemonic = i.mnemonic) : Statement i :=
  ⟨row, List.mem_of_getElem? hk, by simp [OpcodeRow.spells, hw], hm⟩

theorem cls : Statement .cls :=
  of_row 0 ⟨"CLS", 0xFFFF#16, 0x00E0#16⟩ rfl (by decide) rfl

theorem ret : Statement .ret :=
  of_row 1 ⟨"RET", 0xFFFF#16, 0x00EE#16⟩ rfl (by decide) rfl

theorem jp (nnn : Addr12) : Statement (.jp nnn) :=
  of_row 2 ⟨"JP_nnn", 0xF000#16, 0x1000#16⟩ rfl ((wordNNN_and ..).trans (by decide)) rfl

theorem call (nnn : Addr12) : Statement (.call nnn) :=
  of_row 3 ⟨"CALL_nnn", 0xF000#16, 0x2000#16⟩ rfl ((wordNNN_and ..).trans (by decide)) rfl

theorem seImm (x : RegIx) (nn : Byte) : Statement (.seImm x nn) :=
  of_row 4 ⟨"SE_Vx__nn", 0xF000#16, 0x3000#16⟩ rfl ((wordXNN_and ..).trans (by decide)) rfl

theorem sneImm (x : RegIx) (nn : Byte) : Statement (.sneImm x nn) :=
  of_row 5 ⟨"SNE_Vx__nn", 0xF000#16, 0x4000#16⟩ rfl ((wordXNN_and ..).trans (by decide)) rfl

theorem seReg (x y : RegIx) : Statement (.seReg x y) :=
  of_row 6 ⟨"SE_Vx__Vy", 0xF00F#16, 0x5000#16⟩ rfl ((wordXY_and ..).trans (by decide)) rfl

theorem ldImm (x : RegIx) (nn : Byte) : Statement (.ldImm x nn) :=
  of_row 7 ⟨"LD_Vx__nn", 0xF000#16, 0x6000#16⟩ rfl ((wordXNN_and ..).trans (by decide)) rfl

theorem addImm (x : RegIx) (nn : Byte) : Statement (.addImm x nn) :=
  of_row 8 ⟨"ADD_Vx__nn", 0xF000#16, 0x7000#16⟩ rfl ((wordXNN_and ..).trans (by decide)) rfl

theorem ldReg (x y : RegIx) : Statement (.ldReg x y) :=
  of_row 9 ⟨"LD_Vx__Vy", 0xF00F#16, 0x8000#16⟩ rfl ((wordXY_and ..).trans (by decide)) rfl

theorem orReg (x y : RegIx) : Statement (.orReg x y) :=
  of_row 10 ⟨"OR_Vx__Vy", 0xF00F#16, 0x8001#16⟩ rfl ((wordXY_and ..).trans (by decide)) rfl

theorem andReg (x y : RegIx) : Statement (.andReg x y) :=
  of_row 11 ⟨"AND_Vx__Vy", 0xF00F#16, 0x8002#16⟩ rfl ((wordXY_and ..).trans (by decide)) rfl

theorem xorReg (x y : RegIx) : Statement (.xorReg x y) :=
  of_row 12 ⟨"XOR_Vx__Vy", 0xF00F#16, 0x8003#16⟩ rfl ((wordXY_and ..).trans (by decide)) rfl

theorem addReg (x y : RegIx) : Statement (.addReg x y) :=
  of_row 13 ⟨"ADD_Vx__Vy", 0xF00F#16, 0x8004#16⟩ rfl ((wordXY_and ..).trans (by decide)) rfl

theorem subReg (x y : RegIx) : Statement (.subReg x y) :=
  of_row 14 ⟨"SUB_Vx__Vy", 0xF00F#16, 0x8005#16⟩ rfl ((wordXY_and ..).trans (by decide)) rfl

theorem shr (x y : RegIx) : Statement (.shr x y) :=
  of_row 15 ⟨"SHR_Vx__Vy", 0xF00F#16, 0x8006#16⟩ rfl ((wordXY_and ..).trans (by decide)) rfl

theorem subnReg (x y : RegIx) : Statement (.subnReg x y) :=
  of_row 16 ⟨"SUBN_Vx__Vy", 0xF00F#16, 0x8007#16⟩ rfl ((wordXY_and ..).trans (by decide)) rfl

theorem shl (x y : RegIx) : Statement (.shl x y) :=
  of_row 17 ⟨"SHL_Vx__Vy", 0xF00F#16, 0x800E#16⟩ rfl ((wordXY_and ..).trans (by decide)) rfl

theorem sneReg (x y : RegIx) : Statement (.sneReg x y) :=
  of_row 18 ⟨"SNE_Vx__Vy", 0xF00F#16, 0x9000#16⟩ rfl ((wordXY_and ..).trans (by decide)) rfl

theorem ldI (nnn : Addr12) : Statement (.ldI nnn) :=
  of_row 19 ⟨"LD_I__nnn", 0xF000#16, 0xA000#16⟩ rfl ((wordNNN_and ..).trans (by decide)) rfl

theorem jpV0 (nnn : Addr12) : Statement (.jpV0 nnn) :=
  of_row 20 ⟨"JP_V0__nnn", 0xF000#16, 0xB000#16⟩ rfl ((wordNNN_and ..).trans (by decide)) rfl

theorem rnd (x : RegIx) (nn : Byte) : Statement (.rnd x nn) :=
  of_row 21 ⟨"RND_Vx__nn", 0xF000#16, 0xC000#16⟩ rfl ((wordXNN_and ..).trans (by decide)) rfl

theorem drw (x y : RegIx) (n : Nibble) : Statement (.drw x y n) :=
  of_row 22 ⟨"DRW_Vx__Vy__n", 0xF000#16, 0xD000#16⟩ rfl ((wordXYN_and ..).trans (by decide)) rfl

theorem skp (x : RegIx) : Statement (.skp x) :=
  of_row 23 ⟨"SKP_Vx", 0xF0FF#16, 0xE09E#16⟩ rfl ((wordX_and ..).trans (by decide)) rfl

theorem sknp (x : RegIx) : Statement (.sknp x) :=
  of_row 24 ⟨"SKNP_Vx", 0xF0FF#16, 0xE0A1#16⟩ rfl ((wordX_and ..).trans (by decide)) rfl

theorem ldVxDT (x : RegIx) : Statement (.ldVxDT x) :=
  of_row 25 ⟨"LD_Vx__DT", 0xF0FF#16, 0xF007#16⟩ rfl ((wordX_and ..).trans (by decide)) rfl

theorem ldVxK (x : RegIx) : Statement (.ldVxK x) :=
  of_row 26 ⟨"LD_Vx__K", 0xF0FF#16, 0xF00A#16⟩ rfl ((wordX_and ..).trans (by decide)) rfl

theorem ldDTVx (x : RegIx) : Statement (.ldDTVx x) :=
  of_row 27 ⟨"LD_DT__Vx", 0xF0FF#16, 0xF015#16⟩ rfl ((wordX_and ..).trans (by decide)) rfl

theorem ldSTVx (x : RegIx) : Statement (.ldSTVx x) :=
  of_row 28 ⟨"LD_ST__Vx", 0xF0FF#16, 0xF018#16⟩ rfl ((wordX_and ..).trans (by decide)) rfl

theorem addI (x : RegIx) : Statement (.addI x) :=
  of_row 29 ⟨"ADD_I__Vx", 0xF0FF#16, 0xF01E#16⟩ rfl ((wordX_and ..).trans (by decide)) rfl

theorem ldF (x : RegIx) : Statement (.ldF x) :=
  of_row 30 ⟨"LD_F__Vx", 0xF0FF#16, 0xF029#16⟩ rfl ((wordX_and ..).trans (by decide)) rfl

theorem ldB (x : RegIx) : Statement (.ldB x) :=
  of_row 31 ⟨"LD_B__Vx", 0xF0FF#16, 0xF033#16⟩ rfl ((wordX_and ..).trans (by decide)) rfl

theorem storeRegs (x : RegIx) : Statement (.storeRegs x) :=
  of_row 32 ⟨"LD__I___Vx", 0xF0FF#16, 0xF055#16⟩ rfl ((wordX_and ..).trans (by decide)) rfl

theorem loadRegs (x : RegIx) : Statement (.loadRegs x) :=
  of_row 33 ⟨"LD_Vx___I", 0xF0FF#16, 0xF065#16⟩ rfl ((wordX_and ..).trans (by decide)) rfl

end Sys2Proof.Laws.WordMatchesRow
end

