-- ==== Sys2Proof/Laws/Step.lean ====
section
/-!
SUPPORT. What a step can do (40_step_and_dispatch.md R120): it idles, it faults at the fetch, it faults at decode, or it runs one
instruction.
-/

namespace Sys2Proof.Machine

theorem idle_iff (s : State) (keys : BitVec 16) :
    s.idle keys = true ↔ s.mode = .halt ∨ (s.waitValid = true ∧ keys = 0#16) := by
  simp [State.idle]

theorem not_idle_iff (s : State) (keys : BitVec 16) : s.idle keys = false ↔ s.Fetches keys := by
  rw [← Bool.not_eq_true, idle_iff, State.Fetches]
  cases hm : s.mode <;> simp

@[simp] theorem beforeFetch_pc (s : State) (inp : StepInput) : (s.beforeFetch inp).pc = s.pc := by
  unfold State.beforeFetch State.satisfyWait; split <;> rfl

@[simp] theorem beforeFetch_mem (s : State) (inp : StepInput) : (s.beforeFetch inp).mem = s.mem := by
  unfold State.beforeFetch State.satisfyWait; split <;> rfl

@[simp] theorem beforeFetch_mode (s : State) (inp : StepInput) : (s.beforeFetch inp).mode = s.mode := by
  unfold State.beforeFetch State.satisfyWait; split <;> rfl

@[simp] theorem beforeFetch_changed (s : State) (inp : StepInput) : (s.beforeFetch inp).displayChanged = false := by
  unfold State.beforeFetch State.satisfyWait; split <;> rfl

@[simp] theorem beforeFetch_readByte (s : State) (inp : StepInput) (a : Nat) :
    (s.beforeFetch inp).readByte a = s.readByte a := by simp [State.readByte]

@[simp] theorem beforeFetch_keys (s : State) (inp : StepInput) : (s.beforeFetch inp).keys = inp.keys := by
  unfold State.beforeFetch State.satisfyWait; split <;> rfl

@[simp] theorem beforeFetch_rnd (s : State) (inp : StepInput) : (s.beforeFetch inp).rnd = inp.rnd := by
  unfold State.beforeFetch State.satisfyWait; split <;> rfl

@[simp] theorem beforeFetch_cfg (s : State) (inp : StepInput) : (s.beforeFetch inp).cfg = s.cfg := by
  unfold State.beforeFetch State.satisfyWait; split <;> rfl

/-- A timer one tick later (40_step_and_dispatch.md R124). -/
theorem countDown_toNat (b : Byte) : (countDown b).toNat = b.toNat - 1 := by
  unfold countDown
  split
  · rename_i h; simp [h]
  · rename_i h
    have : b.toNat ≠ 0 := fun e => h (BitVec.eq_of_toNat_eq e)
    have := b.isLt
    simp; omega

/-- The divider and the tick of a step that fetches (40_step_and_dispatch.md R120, R124). -/
theorem beforeFetch_div (s : State) (inp : StepInput) :
    (s.beforeFetch inp).div = if Config.tickPeriod ≤ s.div + inp.elapsed then 0 else s.div + inp.elapsed := by
  have : (((s.beginStep inp.elapsed).sample inp).satisfyWait).div = min (s.div + inp.elapsed) Config.tickPeriod := by
    unfold State.satisfyWait; split <;> rfl
  simp only [State.beforeFetch, State.tick, State.tickDue, this, decide_eq_true_eq]
  split_ifs <;> omega

/-- Steps 1 to 3 leave all but the waiting register, the latch, the timers, the divider, the result and the samples. -/
theorem kept_beforeFetch (s : State) (inp : StepInput) :
    KeptBut (if s.waitValid then [s.waitReg] else []) [.wait, .delay, .sound, .divider, .changed, .samples] s
      (s.beforeFetch inp) := by
  have h := (((kept_beginStep s inp.elapsed).trans (kept_sample _ inp)).trans (kept_satisfyWait _)).trans (kept_tick _)
  refine KeptBut.mono h (fun x hx => ?_) (by simp)
  simp only [List.nil_append, List.append_nil] at hx
  exact hx

/-- The fetch succeeds exactly when both bytes lie in memory (20_memory.md R67). -/
theorem fetch_cases (s : State) :
    (0xFFE < s.pc.toNat ∧ s.fetch = none) ∨ (s.pc.toNat ≤ 0xFFE ∧ s.fetch = some s.wordAtPc) := by
  unfold State.fetch State.wordAtPc
  by_cases h : topAddr ≤ s.pc.toNat
  · exact .inl ⟨by have := h; unfold topAddr at this; omega, by rw [if_pos h]⟩
  · exact .inr ⟨by have := h; unfold topAddr at this; omega, by rw [if_neg h]⟩

/-- One step, case by case. -/
theorem stepWith_cases (inp : StepInput) (s : State) :
    (s.idle inp.keys = true ∧ stepWith inp s = .next (s.beginStep inp.elapsed)) ∨
    (s.Fetches inp.keys ∧ 0xFFE < s.pc.toNat ∧
      stepWith inp s = .next ((s.beforeFetch inp).raise .memRange s.pc 0#16 (lowestBad s.pc))) ∨
    (s.Fetches inp.keys ∧ s.pc.toNat ≤ 0xFFE ∧ (∃ e, decode s.wordAtPc = .error e) ∧
      stepWith inp s =
        .next (((s.beforeFetch inp).setPc (s.pc + 2#16)).raise .decodeError s.pc s.wordAtPc 0#16)) ∨
    (s.Fetches inp.keys ∧ s.pc.toNat ≤ 0xFFE ∧ ∃ i, decode s.wordAtPc = .ok i ∧
      stepWith inp s = exec i ((s.beforeFetch inp).setPc (s.pc + 2#16))) := by
  cases hi : s.idle inp.keys with
  | true => exact .inl ⟨rfl, by simp [stepWith, hi]⟩
  | false =>
    refine .inr ?_
    have hf := (not_idle_iff s inp.keys).mp hi
    have hs : stepWith inp s = (s.beforeFetch inp).fetchAndRun := by simp [stepWith, hi]
    have hw : (s.beforeFetch inp).wordAtPc = s.wordAtPc := by simp [State.wordAtPc]
    rcases fetch_cases (s.beforeFetch inp) with ⟨hp, hn⟩ | ⟨hp, hn⟩
    · rw [beforeFetch_pc] at hp
      exact .inl ⟨hf, hp, by rw [hs, State.fetchAndRun, hn]; simp [State.fetchFault]⟩
    · rw [beforeFetch_pc] at hp
      rw [hw] at hn
      have hr : stepWith inp s = ((s.beforeFetch inp).setPc (s.pc + 2#16)).dispatch s.wordAtPc := by
        rw [hs, State.fetchAndRun, hn, beforeFetch_pc]
      rw [hr, State.dispatch]
      cases hd : decode s.wordAtPc with
      | error e =>
        exact .inr (.inl ⟨hf, hp, ⟨e, rfl⟩, by simp [State.decodeFault, instrAddr_setPc]⟩)
      | ok i => exact .inr (.inr ⟨hf, hp, i, rfl, rfl⟩)

theorem stepWith_fetchFault {inp : StepInput} {s : State} (hf : s.Fetches inp.keys) (hp : 0xFFE < s.pc.toNat) :
    stepWith inp s = .next ((s.beforeFetch inp).raise .memRange s.pc 0#16 (lowestBad s.pc)) := by
  have hi := (not_idle_iff s inp.keys).mpr hf
  rcases stepWith_cases inp s with ⟨h, _⟩ | ⟨_, _, h⟩ | ⟨_, h, _⟩ | ⟨_, h, _⟩
  · rw [hi] at h; exact absurd h (by simp)
  · exact h
  · omega
  · omega

theorem stepWith_decodeFault {inp : StepInput} {s : State} {e : Illegal} (hf : s.Fetches inp.keys)
    (hp : s.pc.toNat ≤ 0xFFE) (hd : decode s.wordAtPc = .error e) :
    stepWith inp s = .next (((s.beforeFetch inp).setPc (s.pc + 2#16)).raise .decodeError s.pc s.wordAtPc 0#16) := by
  have hi := (not_idle_iff s inp.keys).mpr hf
  rcases stepWith_cases inp s with ⟨h, _⟩ | ⟨_, h, _⟩ | ⟨_, _, _, h⟩ | ⟨_, _, i, h, _⟩
  · rw [hi] at h; exact absurd h (by simp)
  · omega
  · exact h
  · rw [hd] at h; exact absurd h (by simp)

theorem stepWith_runs {inp : StepInput} {s : State} {i : Instr} (hf : s.Fetches inp.keys)
    (hp : s.pc.toNat ≤ 0xFFE) (hd : decode s.wordAtPc = .ok i) :
    stepWith inp s = exec i ((s.beforeFetch inp).setPc (s.pc + 2#16)) := by
  have hi := (not_idle_iff s inp.keys).mpr hf
  rcases stepWith_cases inp s with ⟨h, _⟩ | ⟨_, h, _⟩ | ⟨_, _, ⟨e, h⟩, _⟩ | ⟨_, _, j, h, he⟩
  · rw [hi] at h; exact absurd h (by simp)
  · omega
  · rw [hd] at h; exact absurd h (by simp)
  · rw [hd] at h; cases h; exact he

/-- The lowest asserted key (40_step_and_dispatch.md R123). -/
theorem lowestKey_spec {keys : BitVec 16} (h : keys ≠ 0#16) :
    ∃ k, k < 16 ∧ keys.getLsbD k = true ∧ (∀ j, j < k → keys.getLsbD j = false) ∧ lowestKey keys = BitVec.ofNat 8 k := by
  cases hf : (List.range 16).find? (fun k => keys.getLsbD k) with
  | none =>
    exfalso; apply h
    apply BitVec.eq_of_getLsbD_eq
    intro k hk
    have := List.find?_eq_none.mp hf k (List.mem_range.mpr hk)
    simpa using this
  | some k =>
    have hk : k < 16 := List.mem_range.mp (List.mem_of_find?_eq_some hf)
    refine ⟨k, hk, by simpa using List.find?_some hf, ?_, by simp [lowestKey, hf]⟩
    intro j hj
    have := (List.find?_range_eq_some.mp hf).2.2 j hj
    simpa using this

end Sys2Proof.Machine
end

