-- ==== Sys2Proof/Tests/Slice0.lean ====
section
/-!
SUPPORT. The model's own tests. Expected values come from the spec: its opcode table (30_encoding.md R95), its list of illegal
words (R97) and its test vectors (95_test_vectors.md, cited by their ids). After the tests stand the witnesses: for every
statement with hypotheses, concrete values that meet them.
-/

namespace Sys2Proof.Tests

open Sys2Proof.Machine

/-- The reset state with all four straps 0, as the conventions of 95_test_vectors.md say. -/
def start : State := { State.reset with cfg := ⟨false, false, false, false⟩ }

/-- `start` with all four straps 1. -/
def strapped : State := { State.reset with cfg := ⟨true, true, true, true⟩ }

/-- Inputs of a step with no key, no time and a random byte 0. -/
def still : StepInput := ⟨0#16, 0, 0#8⟩

/-- `s` with these general registers written. -/
def withV (s : State) (l : List (RegIx × Byte)) : State := l.foldl (fun t p => t.writeV p.1 p.2) s

/-- `s` with `SP` = `k` and every stack entry `w`. -/
def withStack (s : State) (k : Fin 17) (w : Word) : State := { s with sp := k, stack := Vector.replicate 16 w }

/-- What `f` sees after one step that fetches the word `w` at `PC`. -/
def after {α : Type} (s : State) (w : Nat) (f : State → α) (inp : StepInput := still) : Option α :=
  match stepWith inp (s.withFetchWord 16 w) with
  | .next t => some (f t)
  | .fault _ => none
  | .refused _ => none

/-- The fault report as the vectors write it: code, address, word, info, and `PC`. -/
def report (t : State) : Nat × Word × Word × Word × Word :=
  (t.faultCode.toNat, t.faultAddr, t.faultWord, t.faultInfo, t.pc)

/-- The lit pixels, as (row, column). -/
def lit (t : State) : List (Nat × Nat) :=
  (List.range 32).flatMap (fun r => if t.fb.row r = 0#64 then [] else
    ((List.range 64).filter (fun c => t.fb.pixel r c)).map (fun c => (r, c)))

-- ==== Well-formedness: words that are no instruction ====

/-- DI1 to DI5. -/
theorem test_illegal_words_of_families_0_and_5 :
    [0x0000#16, 0x00E1#16, 0x00FE#16, 0x0123#16, 0x5121#16].any legalWord = false := by decide

/-- DI6 to DI8, and the other sub-opcodes of 30_encoding.md R97. -/
theorem test_illegal_words_of_families_8_and_9 :
    [0x8128#16, 0x8129#16, 0x812A#16, 0x812B#16, 0x812C#16, 0x812D#16, 0x812F#16, 0x9121#16].any legalWord = false := by decide

/-- DI9 to DI14. -/
theorem test_illegal_words_of_families_E_and_F :
    [0xE19F#16, 0xE000#16, 0xF100#16, 0xF156#16, 0xF1FF#16, 0xFFFF#16].any legalWord = false := by decide

/-- The words that 95_test_vectors.md 2.1 says must decode, some of each family. -/
theorem test_legal_words_are_legal :
    [0x00E0#16, 0x00EE#16, 0x1000#16, 0x2000#16, 0x3F00#16, 0x4FFF#16, 0x5FF0#16, 0x8FFE#16, 0x9000#16, 0xDFFF#16,
      0xEFA1#16, 0xFF0A#16, 0xFF65#16].all legalWord = true := by decide

/-- Each family of 30_encoding.md R97 by its name. -/
theorem test_illegal_words_are_refused_by_name :
    (decode 0x00E1#16, decode 0x5121#16, decode 0x8128#16, decode 0x9121#16, decode 0xE19F#16, decode 0xF156#16) =
      (.error .family0, .error .family5, .error .family8, .error .family9, .error .familyE, .error .familyF) := rfl

/-- One byte is no word, and no byte is none. -/
theorem test_truncated_bytes_are_refused :
    decodeBytes [0x60#8] = .error .truncated ∧ decodeBytes [] = .error .truncated := ⟨rfl, rfl⟩

/-- Every field value is legal (30_encoding.md R100). -/
theorem test_every_instruction_is_well_formed :
    (Instr.drw 1#4 2#4 0xA#4).wellFormed = true ∧ (Instr.loadRegs 0xF#4).wellFormed = true := by decide

-- ==== Decoding: one word of each constructor, its bits written out from 30_encoding.md R91, R92, R95 ====

/-- 0x00E0. -/
theorem test_decode_cls :
    decode 0b0000000011100000#16 = .ok (.cls) ∧ encode (.cls) = 0x00E0#16 := ⟨rfl, rfl⟩

/-- 0x00EE. -/
theorem test_decode_ret :
    decode 0b0000000011101110#16 = .ok (.ret) ∧ encode (.ret) = 0x00EE#16 := ⟨rfl, rfl⟩

/-- 0x1ABC. -/
theorem test_decode_jp :
    decode 0b0001101010111100#16 = .ok (.jp 0xABC#12) ∧ encode (.jp 0xABC#12) = 0x1ABC#16 := ⟨rfl, rfl⟩

/-- 0x2DEF. -/
theorem test_decode_call :
    decode 0b0010110111101111#16 = .ok (.call 0xDEF#12) ∧ encode (.call 0xDEF#12) = 0x2DEF#16 := ⟨rfl, rfl⟩

/-- 0x3F01. -/
theorem test_decode_seImm :
    decode 0b0011111100000001#16 = .ok (.seImm 0xF#4 0x01#8) ∧ encode (.seImm 0xF#4 0x01#8) = 0x3F01#16 := ⟨rfl, rfl⟩

/-- 0x432A. -/
theorem test_decode_sneImm :
    decode 0b0100001100101010#16 = .ok (.sneImm 0x3#4 0x2A#8) ∧ encode (.sneImm 0x3#4 0x2A#8) = 0x432A#16 := ⟨rfl, rfl⟩

/-- 0x5120. -/
theorem test_decode_seReg :
    decode 0b0101000100100000#16 = .ok (.seReg 1#4 2#4) ∧ encode (.seReg 1#4 2#4) = 0x5120#16 := ⟨rfl, rfl⟩

/-- 0x6A2B. -/
theorem test_decode_ldImm :
    decode 0b0110101000101011#16 = .ok (.ldImm 0xA#4 0x2B#8) ∧ encode (.ldImm 0xA#4 0x2B#8) = 0x6A2B#16 := ⟨rfl, rfl⟩

/-- 0x70FF. -/
theorem test_decode_addImm :
    decode 0b0111000011111111#16 = .ok (.addImm 0#4 0xFF#8) ∧ encode (.addImm 0#4 0xFF#8) = 0x70FF#16 := ⟨rfl, rfl⟩

/-- 0x8AB0. -/
theorem test_decode_ldReg :
    decode 0b1000101010110000#16 = .ok (.ldReg 0xA#4 0xB#4) ∧ encode (.ldReg 0xA#4 0xB#4) = 0x8AB0#16 := ⟨rfl, rfl⟩

/-- 0x8121. -/
theorem test_decode_orReg :
    decode 0b1000000100100001#16 = .ok (.orReg 1#4 2#4) ∧ encode (.orReg 1#4 2#4) = 0x8121#16 := ⟨rfl, rfl⟩

/-- 0x81F2. -/
theorem test_decode_andReg :
    decode 0b1000000111110010#16 = .ok (.andReg 1#4 0xF#4) ∧ encode (.andReg 1#4 0xF#4) = 0x81F2#16 := ⟨rfl, rfl⟩

/-- 0x8123. -/
theorem test_decode_xorReg :
    decode 0b1000000100100011#16 = .ok (.xorReg 1#4 2#4) ∧ encode (.xorReg 1#4 2#4) = 0x8123#16 := ⟨rfl, rfl⟩

/-- 0x8AB4. -/
theorem test_decode_addReg :
    decode 0b1000101010110100#16 = .ok (.addReg 0xA#4 0xB#4) ∧ encode (.addReg 0xA#4 0xB#4) = 0x8AB4#16 := ⟨rfl, rfl⟩

/-- 0x8125. -/
theorem test_decode_subReg :
    decode 0b1000000100100101#16 = .ok (.subReg 1#4 2#4) ∧ encode (.subReg 1#4 2#4) = 0x8125#16 := ⟨rfl, rfl⟩

/-- 0x8F16. -/
theorem test_decode_shr :
    decode 0b1000111100010110#16 = .ok (.shr 0xF#4 1#4) ∧ encode (.shr 0xF#4 1#4) = 0x8F16#16 := ⟨rfl, rfl⟩

/-- 0x8127. -/
theorem test_decode_subnReg :
    decode 0b1000000100100111#16 = .ok (.subnReg 1#4 2#4) ∧ encode (.subnReg 1#4 2#4) = 0x8127#16 := ⟨rfl, rfl⟩

/-- 0x81FE. -/
theorem test_decode_shl :
    decode 0b1000000111111110#16 = .ok (.shl 1#4 0xF#4) ∧ encode (.shl 1#4 0xF#4) = 0x81FE#16 := ⟨rfl, rfl⟩

/-- 0x9AB0. -/
theorem test_decode_sneReg :
    decode 0b1001101010110000#16 = .ok (.sneReg 0xA#4 0xB#4) ∧ encode (.sneReg 0xA#4 0xB#4) = 0x9AB0#16 := ⟨rfl, rfl⟩

/-- 0xA123. -/
theorem test_decode_ldI :
    decode 0b1010000100100011#16 = .ok (.ldI 0x123#12) ∧ encode (.ldI 0x123#12) = 0xA123#16 := ⟨rfl, rfl⟩

/-- 0xB2FF. -/
theorem test_decode_jpV0 :
    decode 0b1011001011111111#16 = .ok (.jpV0 0x2FF#12) ∧ encode (.jpV0 0x2FF#12) = 0xB2FF#16 := ⟨rfl, rfl⟩

/-- 0xC1F0. -/
theorem test_decode_rnd :
    decode 0b1100000111110000#16 = .ok (.rnd 1#4 0xF0#8) ∧ encode (.rnd 1#4 0xF0#8) = 0xC1F0#16 := ⟨rfl, rfl⟩

/-- 0xD12A. -/
theorem test_decode_drw :
    decode 0b1101000100101010#16 = .ok (.drw 1#4 2#4 0xA#4) ∧ encode (.drw 1#4 2#4 0xA#4) = 0xD12A#16 := ⟨rfl, rfl⟩

/-- 0xE29E. -/
theorem test_decode_skp :
    decode 0b1110001010011110#16 = .ok (.skp 2#4) ∧ encode (.skp 2#4) = 0xE29E#16 := ⟨rfl, rfl⟩

/-- 0xE3A1. -/
theorem test_decode_sknp :
    decode 0b1110001110100001#16 = .ok (.sknp 3#4) ∧ encode (.sknp 3#4) = 0xE3A1#16 := ⟨rfl, rfl⟩

/-- 0xF307. -/
theorem test_decode_ldVxDT :
    decode 0b1111001100000111#16 = .ok (.ldVxDT 3#4) ∧ encode (.ldVxDT 3#4) = 0xF307#16 := ⟨rfl, rfl⟩

/-- 0xF50A. -/
theorem test_decode_ldVxK :
    decode 0b1111010100001010#16 = .ok (.ldVxK 5#4) ∧ encode (.ldVxK 5#4) = 0xF50A#16 := ⟨rfl, rfl⟩

/-- 0xF115. -/
theorem test_decode_ldDTVx :
    decode 0b1111000100010101#16 = .ok (.ldDTVx 1#4) ∧ encode (.ldDTVx 1#4) = 0xF115#16 := ⟨rfl, rfl⟩

/-- 0xF318. -/
theorem test_decode_ldSTVx :
    decode 0b1111001100011000#16 = .ok (.ldSTVx 3#4) ∧ encode (.ldSTVx 3#4) = 0xF318#16 := ⟨rfl, rfl⟩

/-- 0xF11E. -/
theorem test_decode_addI :
    decode 0b1111000100011110#16 = .ok (.addI 1#4) ∧ encode (.addI 1#4) = 0xF11E#16 := ⟨rfl, rfl⟩

/-- 0xF429. -/
theorem test_decode_ldF :
    decode 0b1111010000101001#16 = .ok (.ldF 4#4) ∧ encode (.ldF 4#4) = 0xF429#16 := ⟨rfl, rfl⟩

/-- 0xF133. -/
theorem test_decode_ldB :
    decode 0b1111000100110011#16 = .ok (.ldB 1#4) ∧ encode (.ldB 1#4) = 0xF133#16 := ⟨rfl, rfl⟩

/-- 0xF255. -/
theorem test_decode_storeRegs :
    decode 0b1111001001010101#16 = .ok (.storeRegs 2#4) ∧ encode (.storeRegs 2#4) = 0xF255#16 := ⟨rfl, rfl⟩

/-- 0xF365. -/
theorem test_decode_loadRegs :
    decode 0b1111001101100101#16 = .ok (.loadRegs 3#4) ∧ encode (.loadRegs 3#4) = 0xF365#16 := ⟨rfl, rfl⟩

/-- DE4. -/
theorem test_fields_of_a_word :
    (fieldOp 0x8AB4#16, fieldX 0x8AB4#16, fieldY 0x8AB4#16, fieldN 0x8AB4#16, fieldNN 0x8AB4#16, fieldNNN 0x8AB4#16) =
      (0x8#4, 0xA#4, 0xB#4, 0x4#4, 0xB4#8, 0xAB4#12) := by decide

/-- Byte order (20_memory.md R69). -/
theorem test_bytes_are_high_byte_first :
    decodeBytes [0x6A#8, 0x2B#8, 0x77#8] = .ok (.ldImm 0xA#4 0x2B#8, [0x77#8]) ∧ tableBytes 16 0x6A2B = [0x6A#8, 0x2B#8] := ⟨rfl, rfl⟩

-- ==== One step of each instruction ====

/-- DR13. -/
theorem test_cls_clears :
    after { withV start [(0xF#4, 1#8)] with fb := Frame.blank.toggle 3 3 } 0x00E0 (fun t => (lit t, t.readV 0xF#4, t.displayChanged)) = some ([], 1#8, true) := by decide

/-- CF1. -/
theorem test_ret_pops :
    after { withStack start 1 0x0206#16 with pc := 0x0300#16 } 0x00EE (fun t => (t.pc, t.sp)) = some (0x0206#16, 0) := by decide

/-- CF2. -/
theorem test_ret_underflows :
    after { start with pc := 0x0300#16 } 0x00EE (fun t => (report t, t.mode)) = some ((2, 0x0300#16, 0x00EE#16, 0#16, 0x0302#16), .halt) := by decide

/-- CF3. -/
theorem test_jp_jumps :
    after start 0x1FFF (fun t => (t.pc, t.mode)) = some (0x0FFF#16, .run) := by decide

/-- CF5. -/
theorem test_call_takes_the_last_entry :
    after { withStack start 15 0#16 with pc := 0x0400#16 } 0x2ABC (fun t => (t.stack[15], t.sp, t.pc)) = some (0x0402#16, 16, 0x0ABC#16) := by decide

/-- CF6. -/
theorem test_call_overflows :
    after { withStack start 16 7#16 with pc := 0x0400#16 } 0x2ABC (fun t => (report t, t.sp, t.stack[15])) = some ((4, 0x0400#16, 0x2ABC#16, 0#16, 0x0402#16), 16, 7#16) := by decide

/-- CF7. -/
theorem test_seImm_skips :
    after (withV start [(0xF#4, 0x01#8)]) 0x3F01 (fun t => t.pc) = some (0x0204#16) := by decide

/-- CF8. -/
theorem test_seImm_does_not_skip :
    after (withV start [(0x3#4, 0x2B#8)]) 0x332A (fun t => t.pc) = some (0x0202#16) := by decide

/-- CF9. -/
theorem test_sneImm_does_not_skip :
    after start 0x4300 (fun t => t.pc) = some (0x0202#16) := by decide

/-- CF10. -/
theorem test_sneImm_skips :
    after start 0x432A (fun t => t.pc) = some (0x0204#16) := by decide

/-- CF11. -/
theorem test_seReg_skips :
    after (withV start [(0xA#4, 0x09#8)]) 0x5AA0 (fun t => t.pc) = some (0x0204#16) := by decide

/-- CF13. -/
theorem test_seReg_does_not_skip :
    after (withV start [(0x1#4, 0x07#8), (0x2#4, 0x08#8)]) 0x5120 (fun t => t.pc) = some (0x0202#16) := by decide

/-- CF12. -/
theorem test_sneReg_does_not_skip :
    after (withV start [(0xA#4, 0x09#8)]) 0x9AA0 (fun t => t.pc) = some (0x0202#16) := by decide

/-- CF14. -/
theorem test_sneReg_skips :
    after (withV start [(0x1#4, 0x07#8), (0x2#4, 0x08#8)]) 0x9120 (fun t => t.pc) = some (0x0204#16) := by decide

/-- CF17. -/
theorem test_jpV0_adds_V0_exactly :
    after (withV start [(0x0#4, 0xFF#8)]) 0xBFFF (fun t => (t.pc, t.mode)) = some (0x10FE#16, .run) := by decide

/-- CF16. -/
theorem test_jpV0_adds_Vx_by_strap :
    after (withV strapped [(0x0#4, 0xFF#8), (0x2#4, 0x01#8)]) 0xB2FF (fun t => t.pc) = some (0x0300#16) := by decide

/-- AL1. -/
theorem test_ldImm_writes_VF :
    after start 0x6FAB (fun t => (t.readV 0xF#4, t.pc)) = some (0xAB#8, 0x0202#16) := by decide

/-- AL2. -/
theorem test_addImm_wraps_without_flag :
    after (withV start [(0x0#4, 0xFF#8)]) 0x7002 (fun t => (t.readV 0#4, t.readV 0xF#4)) = some (1#8, 0#8) := by decide

/-- AL4. -/
theorem test_addImm_on_VF :
    after (withV start [(0xF#4, 0xFF#8)]) 0x7F01 (fun t => t.readV 0xF#4) = some (0#8) := by decide

/-- AL5. -/
theorem test_ldReg_copies :
    after (withV start [(0xA#4, 0x01#8), (0xB#4, 0x7E#8)]) 0x8AB0 (fun t => (t.readV 0xA#4, t.readV 0xB#4)) = some (0x7E#8, 0x7E#8) := by decide

/-- AL6. -/
theorem test_orReg_keeps_VF :
    after (withV start [(0x1#4, 0x0C#8), (0x2#4, 0x0A#8), (0xF#4, 0x01#8)]) 0x8121 (fun t => (t.readV 1#4, t.readV 0xF#4)) = some (0x0E#8, 1#8) := by decide

/-- AL12. -/
theorem test_orReg_clear_wins :
    after (withV strapped [(0xF#4, 0xF0#8), (0x1#4, 0x0F#8)]) 0x8F11 (fun t => t.readV 0xF#4) = some (0#8) := by decide

/-- AL8. -/
theorem test_andReg :
    after (withV start [(0x1#4, 0x0C#8), (0x2#4, 0x0A#8)]) 0x8122 (fun t => t.readV 1#4) = some (8#8) := by decide

/-- AL13. -/
theorem test_andReg_reads_VF_before_the_clear :
    after (withV strapped [(0x1#4, 0xFF#8), (0xF#4, 0x01#8)]) 0x81F2 (fun t => (t.readV 1#4, t.readV 0xF#4)) = some (1#8, 0#8) := by decide

/-- AL9. -/
theorem test_xorReg :
    after (withV start [(0x1#4, 0x0C#8), (0x2#4, 0x0A#8)]) 0x8123 (fun t => t.readV 1#4) = some (6#8) := by decide

/-- AL10. -/
theorem test_xorReg_on_itself :
    after (withV strapped [(0x1#4, 0x5A#8), (0xF#4, 0x03#8)]) 0x8113 (fun t => (t.readV 1#4, t.readV 0xF#4)) = some (0#8, 0#8) := by decide

/-- S1. -/
theorem test_addReg_carries :
    after (withV start [(0x1#4, 0xFA#8), (0x2#4, 0x0A#8)]) 0x8124 (fun t => (t.readV 1#4, t.readV 0xF#4)) = some (4#8, 1#8) := by decide

/-- AL19. -/
theorem test_addReg_flag_wins :
    after (withV start [(0xF#4, 0x01#8), (0x1#4, 0x02#8)]) 0x8F14 (fun t => t.readV 0xF#4) = some (0#8) := by decide

/-- S4. -/
theorem test_subReg_borrows :
    after (withV start [(0x1#4, 0x03#8), (0x2#4, 0x05#8), (0xF#4, 0x01#8)]) 0x8125 (fun t => (t.readV 1#4, t.readV 0xF#4)) = some (254#8, 0#8) := by decide

/-- AL21. -/
theorem test_subReg_equal_operands :
    after (withV start [(0x1#4, 0x07#8), (0x2#4, 0x07#8)]) 0x8125 (fun t => (t.readV 1#4, t.readV 0xF#4)) = some (0#8, 1#8) := by decide

/-- AL29. -/
theorem test_shr_of_Vx :
    after (withV start [(0x1#4, 0xFF#8), (0x2#4, 0x02#8)]) 0x8126 (fun t => (t.readV 1#4, t.readV 2#4, t.readV 0xF#4)) = some (0x7F#8, 2#8, 1#8) := by decide

/-- AL30. -/
theorem test_shr_of_Vy :
    after (withV strapped [(0x1#4, 0xFF#8), (0x2#4, 0x02#8), (0xF#4, 0x01#8)]) 0x8126 (fun t => (t.readV 1#4, t.readV 2#4, t.readV 0xF#4)) = some (1#8, 2#8, 0#8) := by decide

/-- AL24. -/
theorem test_subnReg :
    after (withV start [(0x1#4, 0x03#8), (0x2#4, 0x05#8)]) 0x8127 (fun t => (t.readV 1#4, t.readV 0xF#4)) = some (2#8, 1#8) := by decide

/-- AL27. -/
theorem test_subnReg_borrows :
    after (withV start [(0x1#4, 0x01#8), (0xF#4, 0x01#8)]) 0x8127 (fun t => (t.readV 1#4, t.readV 0xF#4)) = some (255#8, 0#8) := by decide

/-- AL31. -/
theorem test_shl_of_Vx :
    after (withV start [(0x1#4, 0xFF#8), (0x2#4, 0x40#8)]) 0x812E (fun t => (t.readV 1#4, t.readV 0xF#4)) = some (0xFE#8, 1#8) := by decide

/-- AL38. -/
theorem test_shl_of_VF :
    after (withV strapped [(0x1#4, 0x01#8), (0xF#4, 0x80#8)]) 0x81FE (fun t => (t.readV 1#4, t.readV 0xF#4)) = some (0#8, 1#8) := by decide

/-- AL39. -/
theorem test_rnd_is_masked :
    after start 0xC1F0 (fun t => t.readV 1#4) ⟨0#16, 0, 0xAB#8⟩ = some (0xA0#8) := by decide

/-- DR3. -/
theorem test_drw_clips_at_both_edges :
    after (withV start [(0x0#4, 0x3C#8), (0x1#4, 0x1C#8)]) 0xD01F (fun t => (lit t, t.readV 0xF#4)) = some ([(28, 60), (28, 61), (28, 62), (28, 63), (29, 60), (29, 63), (30, 60), (30, 63), (31, 60), (31, 63)], 0#8) := by decide

/-- DR6. -/
theorem test_drw_out_of_range :
    after { withV start [(1#4, 31#8)] with i := 0x0FFF#16 } 0xD012 (fun t => (report t, lit t)) = some ((3, 0x0200#16, 0xD012#16, 0x1000#16, 0x0202#16), []) := by decide

/-- KT5. -/
theorem test_skp_top_key :
    after (withV start [(0x1#4, 0x0F#8)]) 0xE19E (fun t => t.pc) ⟨0x8000#16, 0, 0#8⟩ = some (0x0204#16) := by decide

/-- KT7. -/
theorem test_skp_code_above_F :
    after (withV start [(0x1#4, 0x10#8)]) 0xE19E (fun t => t.pc) ⟨0xFFFF#16, 0, 0#8⟩ = some (0x0202#16) := by decide

/-- KT4. -/
theorem test_sknp_all_but_5 :
    after (withV start [(0x2#4, 0x05#8)]) 0xE2A1 (fun t => t.pc) ⟨0xFFDF#16, 0, 0#8⟩ = some (0x0204#16) := by decide

/-- KT3. -/
theorem test_sknp_pressed :
    after (withV start [(0x2#4, 0x05#8)]) 0xE2A1 (fun t => t.pc) ⟨0x0020#16, 0, 0#8⟩ = some (0x0202#16) := by decide

/-- KT9, on the meaning: whether a tick is due before it is open (`TICK_PERIOD`). -/
theorem test_ldVxDT_reads_the_timer :
    execLdVxDT 3#4 { start with dt := 0x3C#8 } = .next ({ start with dt := 0x3C#8 }.writeV 3#4 0x3C#8) := rfl

/-- KT16. -/
theorem test_ldVxK_sets_the_latch :
    after (withV start [(0xF#4, 0x09#8)]) 0xFF0A (fun t => (t.waitValid, t.waitReg, t.readV 0xF#4, t.pc)) ⟨0xFFFF#16, 0, 0#8⟩ = some (true, 0xF#4, 9#8, 0x0202#16) := by decide

/-- KT12: the write comes after the tick. -/
theorem test_ldDTVx :
    after { withV start [(1#4, 9#8)] with dt := 3#8 } 0xF115 (fun t => t.dt) = some (9#8) := by decide

/-- KT13. -/
theorem test_ldSTVx_turns_the_tone_on :
    after (withV start [(0x3#4, 0x02#8)]) 0xF318 (fun t => (t.st, t.toneActive)) = some (2#8, true) := by decide

/-- KT14. -/
theorem test_ldSTVx_turns_the_tone_off :
    after { start with st := 1#8 } 0xF118 (fun t => (t.st, t.toneActive)) = some (0#8, false) := by decide

/-- IM1. -/
theorem test_ldI :
    after start 0xAFFF (fun t => t.i) = some (0x0FFF#16) := by decide

/-- IM3. -/
theorem test_addI_has_no_flag :
    after { withV start [(1#4, 1#8), (0xF#4, 7#8)] with i := 0x0FFF#16 } 0xF11E (fun t => (t.i, t.readV 0xF#4)) = some (0x1000#16, 7#8) := by decide

/-- IM4. -/
theorem test_addI_wraps :
    after { withV start [(1#4, 0xFF#8)] with i := 0xFFFF#16 } 0xF11E (fun t => t.i) = some (0x00FE#16) := by decide

/-- IM6. -/
theorem test_ldF_last_glyph :
    after (withV start [(0x1#4, 0x0F#8)]) 0xF129 (fun t => t.i) = some (0x004B#16) := by decide

/-- IM8. -/
theorem test_ldF_past_the_table :
    after (withV start [(0x1#4, 0xFF#8)]) 0xF129 (fun t => t.i) = some (0x04FB#16) := by decide

/-- S5. -/
theorem test_ldB_digits :
    after { withV start [(1#4, 156#8)] with i := 0x0300#16 } 0xF133 (fun t => (t.readBytes 0x300 3, t.i)) = some ([1#8, 5#8, 6#8], 0x0300#16) := by decide

/-- IM10. -/
theorem test_ldB_writes_nothing_out_of_range :
    after { withV start [(1#4, 255#8)] with i := 0x0FFE#16 } 0xF133 (fun t => (report t, t.readBytes 0xFFE 2)) = some ((3, 0x0200#16, 0xF133#16, 0x1000#16, 0x0202#16), [0#8, 0#8]) := by decide

/-- IM13. -/
theorem test_storeRegs_advances_by_strap :
    after { withV strapped [(0#4, 0x11#8), (1#4, 0x22#8), (2#4, 0x33#8), (3#4, 0x44#8)] with i := 0x0300#16 } 0xF255 (fun t => (t.readBytes 0x300 4, t.i)) = some ([0x11#8, 0x22#8, 0x33#8, 0#8], 0x0303#16) := by decide

/-- IM18. -/
theorem test_storeRegs_out_of_range :
    after { withV start [(0#4, 0x77#8)] with i := 0xFFFF#16 } 0xF055 (fun t => report t) = some (3, 0x0200#16, 0xF055#16, 0xFFFF#16, 0x0202#16) := by decide

/-- IM20. -/
theorem test_loadRegs_loads_VF_like_the_rest :
    after strapped 0xFF65 (fun t => (t.lowRegs 16, t.i)) = some ([0xF0#8, 0x90#8, 0x90#8, 0x90#8, 0xF0#8, 0x20#8, 0x60#8, 0x20#8, 0x20#8, 0x70#8, 0xF0#8, 0x10#8, 0xF0#8, 0x80#8,
        0xF0#8, 0xF0#8], 0x0010#16) := by decide

/-- IM21. -/
theorem test_loadRegs_out_of_range :
    after { withV start [(0#4, 1#8), (1#4, 2#8), (2#4, 3#8)] with i := 0x0FFE#16 } 0xF265 (fun t => (report t, t.lowRegs 3)) = some ((3, 0x0200#16, 0xF265#16, 0x1000#16, 0x0202#16), [1#8, 2#8, 3#8]) := by decide

-- ==== The step ====

/-- DI12. -/
theorem test_decode_error :
    after start 0xF156 (fun t => (report t, t.halted)) = some ((1, 0x0200#16, 0xF156#16, 0#16, 0x0202#16), true) := by decide

/-- FE2: the second byte would be 0x1000, `PC` is not advanced. -/
theorem test_fetch_fault :
    (match stepWith still { start with pc := 0x0FFF#16 } with
      | .next t => some (report t)
      | .fault _ => none
      | .refused _ => none) = some (3, 0x0FFF#16, 0#16, 0x1000#16, 0x0FFF#16) := by decide

/-- FE4. -/
theorem test_odd_pc_is_fetched :
    after { start with pc := 0x0201#16 } 0x612A (fun t => (t.readV 1#4, t.pc)) = some (0x2A#8, 0x0203#16) := by decide

/-- FE1. -/
theorem test_last_word_is_fetched :
    after { start with pc := 0x0FFE#16 } 0x6000 (fun t => (t.pc, t.mode)) = some (0x1000#16, .run) := by decide

/-- KW3: the lowest of keys 3 and 10 is stored, and the same step runs `7501`. -/
theorem test_key_wait_ends_in_the_same_step :
    (match stepWith ⟨0x0408#16, 0, 0#8⟩ { start.withFetchWord 16 0x7501 with waitValid := true, waitReg := 5#4 } with
      | .next t => some (t.readV 5#4, t.waitValid, t.pc)
      | .fault _ => none
      | .refused _ => none) = some (4#8, false, 0x0202#16) := by decide

/-- KW2: no key, nothing changes but `div`. -/
theorem test_key_wait_holds :
    (match stepWith still { start.withFetchWord 16 0x7501 with waitValid := true, waitReg := 5#4 } with
      | .next t => some (t.readV 5#4, t.waitValid, t.pc)
      | .fault _ => none
      | .refused _ => none) = some (0#8, true, 0x0200#16) := by decide

/-- TK1 and TK3: a tick never takes a timer below 0, and takes at most 1. -/
theorem test_tick_counts_once :
    (countDown 0#8, countDown 1#8, countDown 255#8) = (0#8, 0#8, 254#8) := by decide

/-- TK5: a halted machine only counts its divider, up to `TICK_PERIOD`. -/
theorem test_halted_step :
    stepWith ⟨0xFFFF#16, 2 * Config.tickPeriod, 0#8⟩ { start with mode := .halt, dt := 7#8, div := 3 } =
      .next { start with mode := .halt, dt := 7#8, div := Config.tickPeriod } := by
  simp only [stepWith, State.idle, State.beginStep, decide_true, Bool.true_or, if_true]
  rw [Nat.min_eq_right (by omega)]
  rfl

/-- R120: the step takes the host's oldest request first. -/
theorem test_step_takes_the_oldest_input :
    (match step { start.withFetchWord 16 0xC1FF with hostInputs := [⟨0#16, 0, 0x5C#8⟩, still] } with
      | .next t => some (t.readV 1#4, t.hostInputs, t.drawCount)
      | .fault _ => none
      | .refused _ => none) = some (0x5C#8, [still], 0) := by decide

/-- 20_memory.md R63, R64: the first and the last glyph, and the zero fill after them. -/
theorem test_reset_memory :
    (State.reset.readBytes 0x000 5, State.reset.readBytes 0x04B 6) =
      ([0xF0#8, 0x90#8, 0x90#8, 0x90#8, 0xF0#8], [0xF0#8, 0x80#8, 0xF0#8, 0x80#8, 0x80#8, 0#8]) := by decide

/-- A program's bytes at 0x200; a byte equal to what an unlisted address reads as is not listed. -/
theorem test_program_bytes_are_listed :
    Memory.writeBytes [] programBase [0x12#8, 0x00#8, 0x34#8] = [(0x200, 0x12#8), (0x202, 0x34#8)] := by decide

/-- Writing what an unlisted address reads as takes the entry off the list again. -/
theorem test_write_keeps_the_canonical_form :
    (Memory.write [] 0x300 7#8).write 0x300 0#8 = [] ∧ (Memory.write [(0x301, 1#8)] 0x300 7#8) = [(0x300, 7#8), (0x301, 1#8)] := by
  decide

/-- 00_scope.md R5: row 5, column 6 is address 5 * 64 + 6, and not 6 * 64 + 5. -/
theorem test_read_port_address :
    { start with fb := Frame.blank.toggle 5 6 }.frameRead 326#11 = true ∧ { start with fb := Frame.blank.toggle 5 6 }.frameRead 389#11 = false := by decide

/-- CF4: 0x1200 at 0x0200 jumps to itself; 0x1202 does not, and a machine that waits for a key has not ended. -/
theorem test_run_ends :
    ((start.withFetchWord 16 0x1200).runEnd, (start.withFetchWord 16 0x1202).runEnd,
      { start.withFetchWord 16 0x1200 with waitValid := true }.runEnd) = (some .selfJump, none, none) := by decide

/-- DI1, as program P1 ends. -/
theorem test_run_ends_by_decode_error :
    after start 0x0000 (fun t => (t.runEnd, t.endedByDecodeErrorAt 0x0200#16, t.endedByDecodeErrorAt 0x0202#16)) = some (some .faulted, true, false) := by decide

-- ==== Witnesses: values that meet the hypotheses of each statement, each clause at a boundary of its range ====

theorem witness_EncodeOfDecodeIsTheWord : decode 0xDFFF#16 = .ok (.drw 0xF#4 0xF#4 0xF#4) := rfl

/-- The first and the last row; two rows that one word spells are one row. -/
theorem witness_WordsDecodeAsTheirTableRow :
    (⟨"CLS", 0xFFFF#16, 0x00E0#16⟩ ∈ opcodeTable ∧ OpcodeRow.spells ⟨"CLS", 0xFFFF#16, 0x00E0#16⟩ 0x00E0#16 = true) ∧
    (⟨"LD_Vx___I", 0xF0FF#16, 0xF065#16⟩ ∈ opcodeTable ∧ OpcodeRow.spells ⟨"LD_Vx___I", 0xF0FF#16, 0xF065#16⟩ 0xFF65#16 = true) ∧
    decode 0xFF65#16 = .ok (.loadRegs 0xF#4) := ⟨by decide, by decide, rfl⟩

/-- A `FONT` of 80 bytes, and a `PROGRAM` of 3585 bytes, which reaches past 0xFFF and is cut. -/
theorem witness_ResetImageOfMemory :
    glyphFont.length = 80 ∧ 0xFFF - 0x200 < (List.replicate 3585 (7#8 : Byte)).length ∧
    ¬ 0xFFF - 0x200 < ([] : List Byte).length :=
  ⟨by decide, by rw [List.length_replicate]; decide, by decide⟩

theorem witness_FirstStepWithNoProgramFaults : glyphFont.length = 80 := by decide

/-- A state that meets the invariant and whose step runs an instruction. -/
theorem witness_StepKeepsInvariant :
    (State.reset.withFetchWord 16 0x6010).Inv ∧
    ∃ t, step (State.reset.withFetchWord 16 0x6010) = .next t ∧ t.readV 0#4 = 0x10#8 ∧ t.mode = .run :=
  ⟨⟨by decide, Nat.zero_le _, by decide, by decide, by decide, fun j _ hj => absurd hj (Nat.not_lt_zero j), by decide⟩,
    _, rfl, by decide, by decide⟩

theorem witness_HaltedStepChangesOnlyDivider : { start with mode := .halt }.mode = .halt := rfl

/-- No key; the lowest key code; the highest. -/
theorem witness_KeyWaitHoldsUntilAKeyIsDown :
    { start with waitValid := true }.mode = .run ∧ { start with waitValid := true }.waitValid = true ∧ still.keys = 0#16 ∧
    (0 < 16 ∧ (0x0001#16).getLsbD 0 = true ∧ ∀ j, j < 0 → (0x0001#16).getLsbD j = false) ∧
    (15 < 16 ∧ (0x8000#16).getLsbD 15 = true ∧ ∀ j, j < 15 → (0x8000#16).getLsbD j = false) :=
  ⟨rfl, rfl, rfl, by decide, by decide⟩

/-- A tick exactly due, and one `clk` cycle short of it. -/
theorem witness_TickCountsTimersDown :
    Config.tickPeriod ≤ { start with div := Config.tickPeriod }.div + still.elapsed ∧
    { start with div := Config.tickPeriodPred }.div + still.elapsed < Config.tickPeriod ∧ start.Fetches still.keys :=
  ⟨Nat.le_refl _, Nat.lt_succ_self _, rfl, fun h => absurd h (by decide)⟩

theorem witness_StepsOneToThreeKeepAllElse :
    start.waitValid = false ∧ { start with waitValid := true }.waitValid = true := ⟨rfl, rfl⟩

/-- The last word that can be fetched, 0xFFE, with any input: `start` does not wait. An input the host has fixed, and none. -/
theorem witness_StepRunsTheDecodedInstruction :
    (let s := { start with pc := 0x0FFE#16 }.withFetchWord 16 0xF065
     s.Fetches s.nextInput.keys ∧ s.pc.toNat ≤ 0xFFE ∧ decode s.wordAtPc = .ok (.loadRegs 0#4)) ∧
    { start with hostInputs := [still] }.hostInputs = still :: [] ∧ start.hostInputs = [] :=
  ⟨⟨⟨rfl, fun h => absurd h (by decide)⟩, by decide, rfl⟩, rfl, rfl⟩

theorem witness_FetchFaultIsReported :
    let s := { start with pc := 0x0FFF#16 }
    s.Fetches still.keys ∧ 0xFFE < s.pc.toNat ∧ s.mode = .run ∧ ∃ t, stepWith still s = .next t ∧ t.mode = .halt :=
  ⟨⟨rfl, fun h => absurd h (by decide)⟩, by decide, rfl, _, rfl, rfl⟩

theorem witness_DecodeErrorIsReported :
    let s := { start with pc := 0x0FFE#16 }
    s.Fetches still.keys ∧ s.pc.toNat ≤ 0xFFE ∧ decode s.wordAtPc = .error .family0 :=
  ⟨⟨rfl, fun h => absurd h (by decide)⟩, by decide, rfl⟩

/-- A fetch fault and an instruction's fault. -/
theorem witness_FaultEntryIsPrecise :
    (∃ t, stepWith still { start with pc := 0x10FE#16 } = .next t ∧ t.mode = .halt) ∧
    ∃ t, start.mode = .run ∧ stepWith still (start.withFetchWord 16 0x00EE) = .next t ∧ t.mode = .halt :=
  ⟨⟨_, rfl, rfl⟩, _, rfl, rfl, rfl⟩

/-- Each instruction that can fault, just where it does and just where it does not. -/
theorem witness_InstructionsFaultExactlyWhenListed :
    (instrFault .ret start = some (.stackUnderflow, 0#16) ∧ instrFault .ret (withStack start 1 0#16) = none) ∧
    (instrFault (.call 0#12) (withStack start 16 0#16) = some (.stackOverflow, 0#16) ∧
      instrFault (.call 0#12) (withStack start 15 0#16) = none) ∧
    (instrFault (.drw 0#4 0#4 1#4) { start with i := 0x1000#16 } = some (.memRange, 0x1000#16) ∧
      instrFault (.drw 0#4 0#4 1#4) { start with i := 0x0FFF#16 } = none ∧
      instrFault (.drw 0#4 0#4 0#4) { start with i := 0xFFFF#16 } = none) ∧
    (instrFault (.ldB 0#4) { start with i := 0x0FFE#16 } = some (.memRange, 0x1000#16) ∧
      instrFault (.ldB 0#4) { start with i := 0x0FFD#16 } = none) ∧
    (instrFault (.storeRegs 0xF#4) { start with i := 0x0FF1#16 } = some (.memRange, 0x1000#16) ∧
      instrFault (.storeRegs 0xF#4) { start with i := 0x0FF0#16 } = none) ∧
    (instrFault (.loadRegs 0#4) { start with i := 0xFFFF#16 } = some (.memRange, 0xFFFF#16) ∧
      instrFault (.loadRegs 0#4) { start with i := 0x0FFF#16 } = none) := by decide

/-- A step that draws and one that does not. -/
theorem witness_DisplayChangedReportsDrawing :
    (∃ t, stepWith still (start.withFetchWord 16 0xD005) = .next t ∧ t.displayChanged = true) ∧
    ∃ t, stepWith still (start.withFetchWord 16 0x6010) = .next t ∧ t.displayChanged = false :=
  ⟨⟨_, rfl, rfl⟩, _, rfl, rfl⟩

/-- One state in which every instruction completes. -/
theorem witness_InstructionsKeepAllElse (i : Instr) : instrFault i (withStack start 1 0x0200#16) = none := by
  cases i with
  | drw x y n =>
    have := n.isLt
    exact if_neg (fun h => absurd h.2 (by show ¬ 0xFFF < 0 + n.toNat - 1; omega))
  | storeRegs x =>
    have := x.isLt
    exact if_neg (fun h => absurd h.2 (by show ¬ 0xFFF < 0 + (x.toNat + 1) - 1; omega))
  | loadRegs x =>
    have := x.isLt
    exact if_neg (fun h => absurd h.2 (by show ¬ 0xFFF < 0 + (x.toNat + 1) - 1; omega))
  | _ => rfl

theorem witness_ProgramCounterAfterInstruction :
    instrFault .ret (withStack start 1 0x0206#16) = none ∧ instrPc .ret (withStack start 1 0x0206#16) = 0x0206 := by decide

theorem witness_StrapsNeverChange : ∃ t, step strapped = .next t := ⟨_, rfl⟩

/-- `Fx33` and `Fx55` each change a byte. -/
theorem witness_OnlyStoresChangeMemory :
    (∃ t, exec (.ldB 1#4) { withV start [(1#4, 5#8)] with i := 0x0300#16 } = .next t ∧ t.readByte 0x302 ≠ start.readByte 0x302) ∧
    ∃ t, exec (.storeRegs 1#4) { withV start [(1#4, 5#8)] with i := 0x0300#16 } = .next t ∧
      t.readByte 0x301 ≠ start.readByte 0x301 := ⟨⟨_, rfl, by decide⟩, _, rfl, by decide⟩

/-- The last two bytes of memory. -/
theorem witness_StoredBytesAreReadBack :
    0xFFE + [1#8, 2#8].length ≤ 0x1000 ∧ 1 < [1#8, 2#8].length ∧ 0xFFD < 0xFFE ∧ 0xFFE + [1#8, 2#8].length ≤ 0x1000 ∧
    start.mem.wf := by decide

theorem witness_CallPushesAndJumps :
    (withStack start 15 0#16).sp.val < 16 ∧ (withStack start 16 0#16).sp.val = 16 := by decide

theorem witness_ReturnPopsIntoPc : 0 < (withStack start 1 0#16).sp.val ∧ start.sp.val = 0 := by decide

theorem witness_SkipsOnRegisters : (1#4 : Nibble) ≠ 0#4 ∧ (0xF#4 : Nibble) ≠ 0#4 := by decide

/-- Both values of the strap, and a destination that is not `VF`. -/
theorem witness_LogicOnRegisters :
    strapped.cfg.vfResetOnLogic = true ∧ start.cfg.vfResetOnLogic = false ∧ (0xE#4 : RegIx) ≠ regF ∧
    (Instr.andReg 0xE#4 1#4, 0#8) ∈ [(Instr.orReg 0xE#4 1#4, start.readV 0xE#4 ||| start.readV 1#4),
      (Instr.andReg 0xE#4 1#4, start.readV 0xE#4 &&& start.readV 1#4),
      (Instr.xorReg 0xE#4 1#4, start.readV 0xE#4 ^^^ start.readV 1#4)] := by decide

theorem witness_AddsWithCarryOut : (0xE#4 : RegIx) ≠ regF := by decide

theorem witness_SubtractsWithNotBorrow : (0xE#4 : RegIx) ≠ regF := by decide

theorem witness_ShiftsByOne : (0xE#4 : RegIx) ≠ regF := by decide

theorem witness_RandomByteIsMasked : (0x0F#8 : Byte).getLsbD 4 = false ∧ (0x0F#8 : Byte).getLsbD 7 = false := by decide

/-- The footprint at its last place, an empty footprint beyond memory, a footprint one byte too far; a sprite with a lit pixel
under a set bit, and one without. -/
theorem witness_DrawXorsTheSprite :
    ({ start with i := 0x0FFB#16 }.i.toNat + (5#4).toNat - 1 ≤ 0xFFF ∧ (0#4 : Nibble) = 0#4 ∧
      (5#4 : Nibble) ≠ 0#4 ∧ 0xFFF < { start with i := 0x0FFC#16 }.i.toNat + (5#4).toNat - 1) ∧
    (∃ r c, r < 32 ∧ c < 64 ∧ spriteBit 0 0 (start.readBytes 0 5) r c = true ∧
      (Frame.blank.toggle 0 0).pixel r c = true) ∧
    ∀ r c, r < 32 → c < 64 → spriteBit 0 0 (start.readBytes 0 5) r c = true → start.fb.pixel r c = false :=
  ⟨by decide, ⟨0, 0, by decide, by decide, by decide, by decide⟩, fun r c _ _ _ => Frame.pixel_blank r c⟩

theorem witness_DrawingTwiceRestoresTheDisplay :
    ∃ t, start.mode = .run ∧ exec (.drw 0#4 1#4 5#4) start = .next t ∧ t.mode = .run ∧
      t.readV 0#4 = start.readV 0#4 ∧ t.readV 1#4 = start.readV 1#4 :=
  ⟨_, rfl, rfl, rfl, rfl, rfl⟩

/-- Every instruction that completes; `Fx18` and another one, here. -/
theorem witness_NoInstructionReadsSoundTimer :
    (∃ t, exec (.ldVxDT 0#4) start = .next t ∧ ∀ x, Instr.ldVxDT 0#4 ≠ .ldSTVx x) ∧
    ∃ t, exec (.ldSTVx 3#4) start = .next t ∧ Instr.ldSTVx 3#4 = .ldSTVx 3#4 :=
  ⟨⟨_, rfl, fun _ h => Instr.noConfusion h⟩, _, rfl, rfl⟩

/-- The last legal base, the first illegal one, and the bytes beside the footprint. -/
theorem witness_StoresDecimalDigits :
    { start with i := 0x0FFD#16 }.i.toNat + 2 ≤ 0xFFF ∧ 0xFFF < { start with i := 0x0FFE#16 }.i.toNat + 2 ∧
    0xFFC < { start with i := 0x0FFD#16 }.i.toNat ∧ { start with i := 0x0FFC#16 }.i.toNat + 2 < 0xFFF := by decide

/-- The last legal base, the first illegal one, the last register stored, and the bytes beside the footprint. -/
theorem witness_StoresRegisterBlock :
    { start with i := 0x0FF0#16 }.i.toNat + (0xF#4).toNat ≤ 0xFFF ∧
    0xFFF < { start with i := 0x0FF1#16 }.i.toNat + (0xF#4).toNat ∧ (0xF#4 : RegIx).toNat ≤ (0xF#4 : RegIx).toNat ∧
    0xFEF < { start with i := 0x0FF0#16 }.i.toNat ∧ { start with i := 0x0FEF#16 }.i.toNat + (0xF#4).toNat < 0xFFF := by decide

/-- The same bases, the last register loaded and the first one not loaded. -/
theorem witness_LoadsRegisterBlock :
    { start with i := 0x0FF0#16 }.i.toNat + (0xF#4).toNat ≤ 0xFFF ∧
    0xFFF < { start with i := 0x0FF1#16 }.i.toNat + (0xF#4).toNat ∧ (3#4 : RegIx).toNat ≤ (3#4 : RegIx).toNat ∧
    (3#4 : RegIx).toNat < (4#4 : RegIx).toNat ∧ Part.pc ≠ Part.index := by decide

theorem witness_StoreThenLoadGivesRegistersBack :
    ∃ t u : State, { strapped with i := 0x0FF0#16 }.i.toNat + (0xF#4).toNat ≤ 0xFFF ∧
      exec (.storeRegs 0xF#4) { strapped with i := 0x0FF0#16 } = .next t ∧ t.i ≠ u.i ∧
      u.mem = t.mem ∧ u.i = { strapped with i := 0x0FF0#16 }.i :=
  ⟨_, { start with i := 0x0FF0#16 }, by decide, rfl, by decide, by decide, rfl⟩

/-- The last fetch: `Fx55` from 0xFF0 has stored both bytes, and `Fx33` at 0xFFD the two lower digits. -/
theorem witness_NextFetchSeesStoredCode :
    { start with pc := 0x0FFE#16 }.pc.toNat ≤ 0xFFE ∧ { start with i := 0x0FF0#16 }.i.toNat + (0xF#4).toNat ≤ 0xFFF ∧
    { start with i := 0x0FFD#16 }.i.toNat + 2 ≤ 0xFFF := by decide

/-- The first and the last pixel, and an instruction that changes what the port reads. -/
theorem witness_ReadPortShowsEveryPixel :
    (0 < 32 ∧ 0 < 64 ∧ (0#11).toNat = 0 * 64 + 0) ∧ (31 < 32 ∧ 63 < 64 ∧ (2047#11).toNat = 31 * 64 + 63) ∧
    ∃ t, exec .cls { start with fb := Frame.blank.toggle 31 63 } = .next t ∧
      t.frameRead 2047#11 ≠ { start with fb := Frame.blank.toggle 31 63 }.frameRead 2047#11 :=
  ⟨by decide, by decide, _, rfl, by decide⟩

theorem witness_EndedRunStaysEnded :
    { start with mode := .halt }.runEnd = some .faulted ∧ (start.withFetchWord 16 0x1200).runEnd = some .selfJump := by decide

end Sys2Proof.Tests
end

section
/-!
SUPPORT. Everything one instruction can do, said once over dispatch: it faults as 60_exceptions.md R210 lists and only the fault
entry shows, or it completes and changes only the registers and the other state its rules give it (10_state.md R22).
-/

namespace Sys2Proof.Machine

/-- What `exec` answers for `i` in `s`: the listed fault with its report, or a next state inside the frame of `i`. -/
def FaultsOrKeeps (i : Instr) (s : State) : Prop :=
  (∃ k info, instrFault i s = some (k, info) ∧ exec i s = .next (s.raise k (s.pc - 2#16) (encode i) info)) ∨
    (instrFault i s = none ∧
      ∃ t, exec i s = .next t ∧ KeptBut (instrWrites i s.cfg) (instrChanges i s.cfg) s t)

/-- An instruction whose meaning is one next state, with no fault listed for it. -/
theorem FaultsOrKeeps.of_next {i : Instr} {s t : State} (hfault : instrFault i s = none) (hexec : exec i s = .next t)
    (hkept : KeptBut (instrWrites i s.cfg) (instrChanges i s.cfg) s t) : FaultsOrKeeps i s :=
  .inr ⟨hfault, t, hexec, hkept⟩

/-- An instruction whose meaning is a checked access of `n` bytes from `I` up (20_memory.md R68). -/
theorem FaultsOrKeeps.of_accessing {i : Instr} {s done : State} {n : Nat}
    (hfault : instrFault i s = if s.Beyond n then some (.memRange, s.beyondInfo) else none)
    (hexec : exec i s = s.accessing i n done)
    (hkept : KeptBut (instrWrites i s.cfg) (instrChanges i s.cfg) s done) : FaultsOrKeeps i s := by
  rcases accessing_cases s i n done with ⟨hin, hdone⟩ | ⟨hout, hraise⟩
  · have hfits : ¬ s.Beyond n := fun hb => by simp [(outOfRange_iff s n).mpr hb] at hin
    exact .of_next (by rw [hfault, if_neg hfits]) (hexec.trans hdone) hkept
  · have hbeyond : s.Beyond n := (outOfRange_iff s n).mp hout
    refine .inl ⟨.memRange, s.beyondInfo, by rw [hfault, if_pos hbeyond], ?_⟩
    rw [hexec, hraise, lowestBad_eq]; rfl

/-- `00EE`: underflow, or a pop into `PC` (41_control_flow.md R141). -/
theorem ret_faultsOrKeeps (s : State) : FaultsOrKeeps .ret s := by
  by_cases hempty : s.sp.val = 0
  · exact .inl ⟨.stackUnderflow, 0#16, if_pos hempty, if_pos hempty⟩
  · refine .of_next (if_neg hempty) (if_neg hempty) ?_
    exact ((kept_dropTop s).trans (kept_setPc _ _)).mono (by simp) (by simp [instrChanges])

/-- `2nnn`: overflow, or a push and a jump (41_control_flow.md R143). -/
theorem call_faultsOrKeeps (nnn : Addr12) (s : State) : FaultsOrKeeps (.call nnn) s := by
  by_cases hroom : s.sp.val < stackDepth
  · refine .of_next (if_neg (Nat.ne_of_lt hroom)) (dif_pos hroom) ?_
    exact ((kept_push s s.pc hroom).trans (kept_setPc _ _)).mono (by simp) (by simp [instrChanges])
  · have hfull : s.sp.val = stackDepth := Nat.le_antisymm (Nat.le_of_lt_succ s.sp.isLt) (Nat.not_lt.mp hroom)
    exact .inl ⟨.stackOverflow, 0#16, if_pos hfull, dif_neg hroom⟩

/-- Every instruction, from every state. -/
theorem exec_faultsOrKeeps (i : Instr) (s : State) : FaultsOrKeeps i s := by
  cases i with
  | cls => exact .of_next rfl rfl (kept_setFrame s _)
  | ret => exact ret_faultsOrKeeps s
  | jp nnn => exact .of_next rfl rfl (kept_setPc s _)
  | call nnn => exact call_faultsOrKeeps nnn s
  | seImm x nn => exact .of_next rfl rfl (kept_skipIf s _)
  | sneImm x nn => exact .of_next rfl rfl (kept_skipIf s _)
  | seReg x y => exact .of_next rfl rfl (kept_skipIf s _)
  | ldImm x nn => exact .of_next rfl rfl (kept_writeV s x _)
  | addImm x nn => exact .of_next rfl rfl (kept_writeV s x _)
  | ldReg x y => exact .of_next rfl rfl (kept_writeV s x _)
  | orReg x y => exact .of_next rfl rfl (kept_writeLogic s x _)
  | andReg x y => exact .of_next rfl rfl (kept_writeLogic s x _)
  | xorReg x y => exact .of_next rfl rfl (kept_writeLogic s x _)
  | addReg x y => exact .of_next rfl rfl (kept_writeResultFlag s x _ _)
  | subReg x y => exact .of_next rfl rfl (kept_writeResultFlag s x _ _)
  | shr x y => exact .of_next rfl rfl (kept_writeResultFlag s x _ _)
  | subnReg x y => exact .of_next rfl rfl (kept_writeResultFlag s x _ _)
  | shl x y => exact .of_next rfl rfl (kept_writeResultFlag s x _ _)
  | sneReg x y => exact .of_next rfl rfl (kept_skipIf s _)
  | ldI nnn => exact .of_next rfl rfl (kept_setI s _)
  | jpV0 nnn => exact .of_next rfl rfl (kept_setPc s _)
  | rnd x nn => exact .of_next rfl rfl (kept_writeV s x _)
  | drw x y n => exact .of_accessing rfl rfl ((kept_setFrame s _).trans (kept_writeV _ regF _))
  | skp x => exact .of_next rfl rfl (kept_skipIf s _)
  | sknp x => exact .of_next rfl rfl (kept_skipIf s _)
  | ldVxDT x => exact .of_next rfl rfl (kept_writeV s x _)
  | ldVxK x => exact .of_next rfl rfl (kept_setWait s x)
  | ldDTVx x => exact .of_next rfl rfl (kept_setDT s _)
  | ldSTVx x => exact .of_next rfl rfl (kept_setST s _)
  | addI x => exact .of_next rfl rfl (kept_setI s _)
  | ldF x => exact .of_next rfl rfl (kept_setI s _)
  | ldB x => exact .of_accessing rfl rfl (kept_storeBytes s _ _)
  | storeRegs x =>
    refine .of_accessing rfl rfl (((kept_storeBytes s _ _).trans (kept_advanceI_strap _ x)).mono (by simp) ?_)
    cases hstrap : s.cfg.incrementIndexOnStoreLoad <;> simp [State.storeBytes, instrChanges, hstrap]
  | loadRegs x =>
    refine .of_accessing rfl rfl
      (((kept_loadLowRegs s _ (Nat.succ_le_of_lt x.isLt)).trans (kept_advanceI_strap _ x)).mono ?_ ?_)
    · simp [instrWrites]
    · simp [instrChanges]

/-- The display buffer stands in the frame's exceptions of `00E0` and `Dxyn` alone (10_state.md R34). -/
theorem frame_mem_instrChanges_iff (i : Instr) (cfg : Straps) :
    Part.frame ∈ instrChanges i cfg ↔ i = .cls ∨ ∃ x y n, i = .drw x y n := by
  cases i
  case storeRegs | loadRegs => cases h : cfg.incrementIndexOnStoreLoad <;> simp [instrChanges, h]
  all_goals simp [instrChanges]

/-- An instruction other than `00E0` and `Dxyn` keeps the display buffer, whether it completes or faults (10_state.md R34). -/
theorem exec_fb_eq {i : Instr} {s t : State} (hexec : exec i s = .next t)
    (hother : ¬ (i = .cls ∨ ∃ x y n, i = .drw x y n)) : t.fb = s.fb := by
  rcases exec_faultsOrKeeps i s with ⟨k, info, -, hraise⟩ | ⟨-, u, hnext, -, hparts⟩
  · obtain rfl : _ = t := Host.Outcome.next.inj (hraise.symm.trans hexec)
    exact (kept_raise s k _ _ info).2 .frame (by decide)
  · obtain rfl : u = t := Host.Outcome.next.inj (hnext.symm.trans hexec)
    exact hparts .frame ((frame_mem_instrChanges_iff i s.cfg).not.mpr hother)

end Sys2Proof.Machine
end

section
/-!
The display's read port (00_scope.md R5, 10_state.md R34).
-/

namespace Sys2Proof.Machine

/-- The port splits its address into row and column. -/
theorem frameRead_eq_pixel (s : State) {addr : BitVec 11} {r c : Nat} (hc : c < 64) (haddr : addr.toNat = r * 64 + c) :
    s.frameRead addr = s.fb.pixel r c := by
  have hrow : addr.toNat / 64 = r := by omega
  have hcol : addr.toNat % 64 = c := by omega
  rw [State.frameRead, hrow, hcol]

/-- The port reads the display buffer and nothing else. -/
theorem frameRead_congr {s t : State} (h : t.fb = s.fb) (addr : BitVec 11) : t.frameRead addr = s.frameRead addr := by
  rw [State.frameRead, State.frameRead, h]

/-- The 2048 addresses are the 32 rows of 64 columns. -/
theorem readAddr_row_col (addr : BitVec 11) : ∃ r c, r < 32 ∧ c < 64 ∧ addr.toNat = r * 64 + c :=
  have := addr.isLt
  ⟨addr.toNat / 64, addr.toNat % 64, by omega, by omega, by omega⟩

/-- Settles O54: the port's address is row and column, and by exec_fb_eq only `00E0` and `Dxyn` change the display buffer. -/
theorem readPortShowsEveryPixel : Obligations.ReadPortShowsEveryPixel := by
  refine ⟨fun s addr r c _ hc haddr => frameRead_eq_pixel s hc haddr, readAddr_row_col, ?_⟩
  intro i s t addr hexec hdiff
  by_contra hother
  exact hdiff (frameRead_congr (exec_fb_eq hexec hother) addr)

end Sys2Proof.Machine
end

section
/-!
SUPPORT. What an instruction that completes leaves in the pieces of state an invariant speaks of: `PC` (10_state.md R25), the stack
entries in use (R29, R43), the canonical form of memory (20_memory.md R60), and the pieces no instruction ever changes.
-/

namespace Sys2Proof.Machine

/-- An access that stays in memory happens whole (20_memory.md R68). -/
theorem accessing_of_not_beyond {s : State} {n : Nat} (h : ¬ s.Beyond n) (i : Instr) (done : State) :
    s.accessing i n done = .next done :=
  accessing_inRange (Bool.eq_false_iff.mpr fun hout => h ((outOfRange_iff s n).mp hout)) i done

/-- `00EE` with an entry on the stack (41_control_flow.md R141). -/
theorem exec_ret_of_pos {s : State} (h : 0 < s.sp.val) : exec .ret s = .next (s.dropTop.setPc s.topOfStack) :=
  if_neg (Nat.ne_of_gt h)

/-- `2nnn` with room on the stack (41_control_flow.md R143). -/
theorem exec_call_of_room {s : State} (h : s.sp.val < stackDepth) (nnn : Addr12) :
    exec (.call nnn) s = .next ((s.push s.pc h).setPc (addrOf nnn)) := dif_pos h

theorem instrFault_ret_eq_none_iff (s : State) : instrFault .ret s = none ↔ 0 < s.sp.val := by
  simp [instrFault, Nat.pos_iff_ne_zero]

theorem instrFault_call_eq_none_iff (s : State) (nnn : Addr12) :
    instrFault (.call nnn) s = none ↔ s.sp.val < stackDepth := by
  have := s.sp.isLt
  simp [instrFault]; omega

/-- The key test of the meanings is the one of the statements (44_keys_timers.md R190). -/
theorem keyDown_iff (s : State) (x : RegIx) : s.keyDown x = true ↔ s.Pressed x := by simp [State.keyDown]

/-- The field `x` of a `Bnnn` word is the top nibble of `nnn` (41_control_flow.md R148). -/
theorem topNibble_eq_fieldX (nnn : Addr12) : topNibble nnn = fieldX (encode (.jpV0 nnn)) :=
  (extract4_eq fun k hk => by
    rw [encode, getLsbD_wordNNN, if_pos (by omega)]
    simp [topNibble, hk]).symm

/-- The offset jump's sum is exact: it never reaches 2^16 (41_control_flow.md R148). -/
theorem addrOf_add_byte_toNat (nnn : Addr12) (b : Byte) :
    (addrOf nnn + b.setWidth 16).toNat = nnn.toNat + b.toNat := by
  have := nnn.isLt
  have := b.isLt
  simp only [BitVec.toNat_add, addrOf_toNat, BitVec.toNat_setWidth]
  omega

/-- The pieces of state that some instruction changes (10_state.md R25, R27, R29, R31, R32, R34, R35, 20_memory.md R61). -/
def changedByExec : List Part := [.index, .pc, .stack, .delay, .sound, .frame, .changed, .wait, .memory]

/-- `Fx55` changes memory and, by the strap, `I` (45_index_memory.md R204). -/
theorem instrChanges_storeRegs_subset (x : RegIx) (cfg : Straps) : instrChanges (.storeRegs x) cfg ⊆ [.memory, .index] := by
  cases h : cfg.incrementIndexOnStoreLoad <;> simp [instrChanges, h]

/-- `Fx65` changes, by the strap, `I` (45_index_memory.md R205). -/
theorem instrChanges_loadRegs_subset (x : RegIx) (cfg : Straps) : instrChanges (.loadRegs x) cfg ⊆ [.index] := by
  cases h : cfg.incrementIndexOnStoreLoad <;> simp [instrChanges, h]

theorem instrChanges_subset (i : Instr) (cfg : Straps) : instrChanges i cfg ⊆ changedByExec := by
  cases i with
  | storeRegs x => exact List.Subset.trans (instrChanges_storeRegs_subset x cfg) (by decide)
  | loadRegs x => exact List.Subset.trans (instrChanges_loadRegs_subset x cfg) (by decide)
  | _ => simp [instrChanges, changedByExec]

/-- The divider, the mode, the report, the straps, the samples and the host's inputs are no instruction's to change. -/
theorem not_mem_instrChanges {p : Part} (h : p ∉ changedByExec) (i : Instr) (cfg : Straps) : p ∉ instrChanges i cfg :=
  fun hp => h (instrChanges_subset i cfg hp)

end Sys2Proof.Machine
end

section
/-!
The frame of every instruction, `PC` after it, and the straps (10_state.md R22, R25, R39).
-/

namespace Sys2Proof.Machine

/-- Settles O23: where 60_exceptions.md R210 lists no fault, exec_faultsOrKeeps leaves only the completion inside its frame. -/
theorem instructionsKeepAllElse : Obligations.InstructionsKeepAllElse := by
  intro i s hfault
  rcases exec_faultsOrKeeps i s with ⟨k, info, hlisted, -⟩ | ⟨-, hcompletes⟩
  · rw [hfault] at hlisted; cases hlisted
  · exact hcompletes

/-- An instruction whose frame keeps `PC` leaves it at `a + 2` (10_state.md R25). -/
theorem exec_keeps_pc {i : Instr} {s : State} (hfault : instrFault i s = none) (hpc : .pc ∉ instrChanges i s.cfg) :
    ∃ t, exec i s = .next t ∧ t.pc.toNat = s.pc.toNat := by
  obtain ⟨t, hexec, -, hparts⟩ := instructionsKeepAllElse i s hfault
  exact ⟨t, hexec, congrArg BitVec.toNat (hparts .pc hpc)⟩

/-- A skip moves `PC` on when its condition holds (41_control_flow.md R140). -/
theorem skipIf_pc_of_iff (s : State) {c : Bool} {p : Prop} [Decidable p] (h : c = true ↔ p) :
    (s.skipIf c).pc.toNat = (if p then s.pc + 2#16 else s.pc).toNat := by
  rw [State.skipIf_pc]
  congr 1
  exact if_congr h rfl rfl

/-- Settles O24: the control transfers by their own equations, every other instruction by its frame. -/
theorem programCounterAfterInstruction : Obligations.ProgramCounterAfterInstruction := by
  intro i s hfault
  cases i with
  | jp nnn => exact ⟨_, rfl, addrOf_toNat nnn⟩
  | call nnn =>
    have hroom := (instrFault_call_eq_none_iff s nnn).mp hfault
    exact ⟨_, exec_call_of_room hroom nnn, addrOf_toNat nnn⟩
  | ret => exact ⟨_, exec_ret_of_pos ((instrFault_ret_eq_none_iff s).mp hfault), rfl⟩
  | jpV0 nnn =>
    refine ⟨_, rfl, ?_⟩
    rw [State.setPc_pc, addrOf_add_byte_toNat, State.jumpBase, topNibble_eq_fieldX]; rfl
  | seImm x nn => exact ⟨_, rfl, skipIf_pc_of_iff s beq_iff_eq⟩
  | sneImm x nn => exact ⟨_, rfl, skipIf_pc_of_iff s bne_iff_ne⟩
  | seReg x y => exact ⟨_, rfl, skipIf_pc_of_iff s beq_iff_eq⟩
  | sneReg x y => exact ⟨_, rfl, skipIf_pc_of_iff s bne_iff_ne⟩
  | skp x => exact ⟨_, rfl, skipIf_pc_of_iff s (keyDown_iff s x)⟩
  | sknp x =>
    have hnot : (!s.keyDown x) = true ↔ ¬ s.Pressed x := by rw [← keyDown_iff]; simp
    exact ⟨_, rfl, skipIf_pc_of_iff s hnot⟩
  | storeRegs x => exact exec_keeps_pc hfault fun hp => absurd (instrChanges_storeRegs_subset x s.cfg hp) (by decide)
  | loadRegs x => exact exec_keeps_pc hfault fun hp => absurd (instrChanges_loadRegs_subset x s.cfg hp) (by decide)
  | _ => exact exec_keeps_pc hfault (by simp [instrChanges])

/-- No instruction changes the straps, whether it completes or faults (10_state.md R39). -/
theorem exec_cfg_eq {i : Instr} {s t : State} (hexec : exec i s = .next t) : t.cfg = s.cfg := by
  rcases exec_faultsOrKeeps i s with ⟨k, info, -, hraise⟩ | ⟨-, u, hnext, -, hparts⟩
  · obtain rfl : _ = t := Host.Outcome.next.inj (hraise.symm.trans hexec)
    exact State.raise_cfg s k _ _ info
  · obtain rfl : u = t := Host.Outcome.next.inj (hnext.symm.trans hexec)
    exact hparts .config (not_mem_instrChanges (by decide) i s.cfg)

/-- Settles O25: each of the four ways a step can go (stepWith_cases) keeps the straps. -/
theorem strapsNeverChange : Obligations.StrapsNeverChange := by
  intro s t hstep
  rw [← State.takeInput_cfg s]
  rcases stepWith_cases s.nextInput s.takeInput with ⟨-, h⟩ | ⟨-, -, h⟩ | ⟨-, -, -, h⟩ | ⟨-, -, i, -, h⟩
  · obtain rfl := Host.Outcome.next.inj (h.symm.trans hstep)
    rfl
  · obtain rfl := Host.Outcome.next.inj (h.symm.trans hstep)
    exact beforeFetch_cfg _ _
  · obtain rfl := Host.Outcome.next.inj (h.symm.trans hstep)
    exact beforeFetch_cfg _ _
  · exact (exec_cfg_eq (h.symm.trans hstep)).trans (beforeFetch_cfg _ _)

end Sys2Proof.Machine
end

section
/-!
Reset: its values (10_state.md R44) and the invariant after it (R43).
-/

namespace Sys2Proof.Machine

/-- Settles O6: each value of the table of 10_state.md R44 stands in `State.reset`. -/
theorem resetLeavesTheListedValues : Obligations.ResetLeavesTheListedValues := by
  intro s straps font program t
  have hregs : ∀ r, t.readV r = 0#8 := fun r => Vector.getElem_replicate r.isLt
  have hstack : ∀ j, j < 16 → t.stack[j]? = some 0#16 := fun j hj => by
    simp [t, rst_eq, State.resetWith, State.reset, hj]
  have hframe : ∀ r c, t.fb.pixel r c = false := Frame.pixel_blank
  exact ⟨hregs, rfl, rfl, rfl, hstack, rfl, rfl, rfl, hframe, rfl, rfl, rfl, rfl, rfl, rfl, rfl, rfl, rfl, rfl, rfl⟩

/-- Settles O9: the image is canonical (Memory.wf_image), no entry is in use, and nothing is reported. -/
theorem everyRstMeetsInvariant : Obligations.EveryRstMeetsInvariant := by
  intro s straps font program
  exact
    { memory := Memory.wf_image font program
      divider := Nat.zero_le _
      halted := by simp [rst_eq, State.resetWith, State.reset]
      codes := Nat.zero_le _
      quiet := fun _ => ⟨rfl, rfl, rfl⟩
      entries := fun j _ hj => absurd hj (Nat.not_lt_zero j)
      counter := show (0x0200#16 : Word).toNat ≤ 0x10FE by decide }

/-- Settles O8: the reset state is `rst` of itself with the free straps, the default `FONT` and no `PROGRAM`. -/
theorem resetStateMeetsInvariant : Obligations.ResetStateMeetsInvariant := by
  have hreset : State.reset.rst Config.straps glyphFont [] = State.reset := by rw [rst_eq, reset_eq_resetWith]
  have h := everyRstMeetsInvariant State.reset Config.straps glyphFont []
  rwa [hreset] at h

end Sys2Proof.Machine
end

section
/-!
THE INVARIANT over a step (10_state.md R26, R43): fault entry keeps it, steps 1 to 3 keep it, and an instruction that completes keeps
it where the fetch has left `PC` at most 0x1000.
-/

namespace Sys2Proof.Machine

/-- A footprint that is not beyond memory ends at 0xFFF or below (20_memory.md R68). -/
theorem footprint_le {s : State} {n : Nat} (h : ¬ s.Beyond n) (hn : 0 < n) : s.i.toNat + n ≤ topAddr + 1 := by
  simp only [State.Beyond, not_and, not_lt, topAddr] at h ⊢
  have := h hn
  omega

/-- What a checked access that completes leaves is its completion. -/
theorem eq_of_accessing {s t done : State} {i : Instr} {n : Nat} (h : ¬ s.Beyond n) (hexec : s.accessing i n done = .next t) :
    t = done :=
  Host.Outcome.next.inj (hexec.symm.trans (accessing_of_not_beyond h i done))

/-- An instruction that completes leaves memory as it was, or has stored bytes from `I` up that all lie in memory
(20_memory.md R61, R68). -/
theorem exec_mem_cases {i : Instr} {s t : State} (hfault : instrFault i s = none) (hexec : exec i s = .next t) :
    t.mem = s.mem ∨ ∃ bs, s.i.toNat + bs.length ≤ topAddr + 1 ∧ t.mem = s.mem.writeBytes s.i.toNat bs := by
  cases i with
  | ldB x =>
    have hfits : ¬ s.Beyond 3 := by simpa [instrFault] using hfault
    obtain rfl := eq_of_accessing hfits hexec
    exact .inr ⟨bcdDigits (s.readV x), footprint_le hfits (Nat.succ_pos 2), rfl⟩
  | storeRegs x =>
    have hfits : ¬ s.Beyond (x.toNat + 1) := by simpa [instrFault] using hfault
    obtain rfl := eq_of_accessing hfits hexec
    exact .inr ⟨s.lowRegs (x.toNat + 1), by simpa using footprint_le hfits (Nat.succ_pos _), rfl⟩
  | loadRegs x =>
    obtain rfl := eq_of_accessing (by simpa [instrFault] using hfault) hexec
    exact .inl (by simp)
  | drw x y n =>
    obtain rfl := eq_of_accessing (by simpa [instrFault] using hfault) hexec
    exact .inl rfl
  | ret =>
    rw [exec_ret_of_pos ((instrFault_ret_eq_none_iff s).mp hfault)] at hexec
    obtain rfl := Host.Outcome.next.inj hexec
    exact .inl rfl
  | call nnn =>
    rw [exec_call_of_room ((instrFault_call_eq_none_iff s nnn).mp hfault)] at hexec
    obtain rfl := Host.Outcome.next.inj hexec
    exact .inl rfl
  | orReg x y | andReg x y | xorReg x y =>
    obtain rfl := Host.Outcome.next.inj hexec
    exact .inl (State.writeLogic_mem ..)
  | _ =>
    obtain rfl := Host.Outcome.next.inj hexec
    exact .inl rfl

/-- Memory stays canonical (20_memory.md R60). -/
theorem exec_mem_wf {i : Instr} {s t : State} (hwf : s.mem.wf) (hfault : instrFault i s = none) (hexec : exec i s = .next t) :
    t.mem.wf := by
  rcases exec_mem_cases hfault hexec with hmem | ⟨bs, hfits, hmem⟩
  · rwa [hmem]
  · rw [hmem]
    exact Memory.wf_writeBytes bs hwf hfits

/-- The field `entries` of the invariant: every stack entry in use is at most 0x1000 (10_state.md R43). -/
def State.EntriesBounded (s : State) : Prop := ∀ j (h : j < stackDepth), j < s.sp.val → (s.stack[j]).toNat ≤ 0x1000

theorem State.EntriesBounded.of_same {s t : State} (h : s.EntriesBounded) (hstack : Part.stack.Same s t) : t.EntriesBounded := by
  obtain ⟨hsp, hentries⟩ := hstack
  simpa only [State.EntriesBounded, hsp, hentries] using h

theorem State.EntriesBounded.push {s : State} (h : s.EntriesBounded) {w : Word} (hw : w.toNat ≤ 0x1000)
    (hroom : s.sp.val < stackDepth) : (s.push w hroom).EntriesBounded := by
  intro j hj hused
  have hle : j ≤ s.sp.val := Nat.le_of_lt_succ hused
  simp only [State.push_stack, Vector.getElem_set]
  split
  · exact hw
  · exact h j hj (by omega)

theorem State.EntriesBounded.dropTop {s : State} (h : s.EntriesBounded) : s.dropTop.EntriesBounded :=
  fun j hj hused => h j hj (Nat.lt_of_lt_of_le hused (Nat.sub_le _ _))

theorem State.EntriesBounded.topOfStack_le {s : State} (h : s.EntriesBounded) (hpos : 0 < s.sp.val) :
    s.topOfStack.toNat ≤ 0x1000 := by
  rw [topOfStack_eq s hpos]
  exact h _ _ (Nat.sub_lt hpos Nat.one_pos)

/-- A call pushes the address after it, at most 0x1000; a return only drops; no other instruction touches the stack
(10_state.md R29). -/
theorem exec_entriesBounded {i : Instr} {s t : State} (h : s.EntriesBounded) (hpc : s.pc.toNat ≤ 0x1000)
    (hexec : exec i s = .next t) (hkept : KeptBut (instrWrites i s.cfg) (instrChanges i s.cfg) s t)
    (hfault : instrFault i s = none) : t.EntriesBounded := by
  cases i with
  | call nnn =>
    have hroom := (instrFault_call_eq_none_iff s nnn).mp hfault
    rw [exec_call_of_room hroom] at hexec
    obtain rfl := Host.Outcome.next.inj hexec
    exact h.push hpc hroom
  | ret =>
    rw [exec_ret_of_pos ((instrFault_ret_eq_none_iff s).mp hfault)] at hexec
    obtain rfl := Host.Outcome.next.inj hexec
    exact h.dropTop
  | storeRegs x =>
    exact h.of_same (hkept.2 .stack fun hp => absurd (instrChanges_storeRegs_subset x s.cfg hp) (by decide))
  | loadRegs x =>
    exact h.of_same (hkept.2 .stack fun hp => absurd (instrChanges_loadRegs_subset x s.cfg hp) (by decide))
  | _ => exact h.of_same (hkept.2 .stack (by simp [instrChanges]))

/-- A skip from at most 0x1000 stays inside the bound of `PC`. -/
theorem skip_le {pc : Word} (hpc : pc.toNat ≤ 0x1000) (p : Prop) [Decidable p] :
    (if p then pc + 2#16 else pc).toNat ≤ 0x10FE := by
  split
  · simp only [BitVec.toNat_add, BitVec.toNat_ofNat]; omega
  · omega

/-- `PC` after an instruction is at most 0xFFF + 0xFF = 0x10FE, which the offset jump reaches (10_state.md R26). -/
theorem instrPc_le {i : Instr} {s : State} (h : s.EntriesBounded) (hpc : s.pc.toNat ≤ 0x1000)
    (hfault : instrFault i s = none) : instrPc i s ≤ 0x10FE := by
  cases i with
  | jp nnn | call nnn =>
    have := nnn.isLt
    simp only [instrPc]; omega
  | jpV0 nnn =>
    have := nnn.isLt
    have := (if s.cfg.jumpUsesVx then s.readV (fieldX (encode (.jpV0 nnn))) else s.readV 0#4).isLt
    simp only [instrPc]; omega
  | ret =>
    have : s.topOfStack.toNat ≤ 0x1000 := h.topOfStack_le ((instrFault_ret_eq_none_iff s).mp hfault)
    exact Nat.le_trans this (by decide)
  | seImm x nn | sneImm x nn | seReg x y | sneReg x y | skp x | sknp x => exact skip_le hpc _
  | _ => exact Nat.le_trans hpc (by decide)

/-- The next address after a fetch is at most 0x1000 (10_state.md R24). -/
theorem fetched_pc_le {pc : Word} (h : pc.toNat ≤ 0xFFE) : (pc + 2#16).toNat ≤ 0x1000 := by
  simp only [BitVec.toNat_add, BitVec.toNat_ofNat]; omega

/-- Fault entry keeps the invariant (60_exceptions.md R216, R217). -/
theorem State.Inv.raise {s : State} (h : s.Inv) (k : Fault) (addr word info : Word) : (s.raise k addr word info).Inv where
  memory := h.memory
  divider := h.divider
  halted := iff_of_true rfl k.code_ne_zero
  codes := k.code_le
  quiet := fun hzero => absurd hzero k.code_ne_zero
  entries := h.entries
  counter := h.counter

/-- The invariant of a state that has the mode and the report of one that meets it. -/
theorem State.Inv.of_same_report {s t : State} (h : s.Inv) (hmode : Part.mode.Same s t) (hreport : Part.report.Same s t)
    (hmem : t.mem.wf) (hdiv : t.div ≤ Config.tickPeriod) (hentries : t.EntriesBounded) (hpc : t.pc.toNat ≤ 0x10FE) :
    t.Inv := by
  obtain ⟨hcode, haddr, hword, hinfo⟩ := hreport
  exact
    { memory := hmem
      divider := hdiv
      halted := by rw [hcode, show t.mode = s.mode from hmode]; exact h.halted
      codes := by rw [hcode]; exact h.codes
      quiet := by rw [hcode, haddr, hword, hinfo]; exact h.quiet
      entries := hentries
      counter := hpc }

theorem State.Inv.takeInput {s : State} (h : s.Inv) : s.takeInput.Inv :=
  ⟨h.memory, h.divider, h.halted, h.codes, h.quiet, h.entries, h.counter⟩

theorem State.Inv.setPc {s : State} (h : s.Inv) {a : Word} (ha : a.toNat ≤ 0x10FE) : (s.setPc a).Inv :=
  ⟨h.memory, h.divider, h.halted, h.codes, h.quiet, h.entries, ha⟩

/-- The divider stops at `TICK_PERIOD` (40_step_and_dispatch.md R122). -/
theorem State.Inv.beginStep {s : State} (h : s.Inv) (elapsed : Nat) : (s.beginStep elapsed).Inv :=
  ⟨h.memory, Nat.min_le_right _ _, h.halted, h.codes, h.quiet, h.entries, h.counter⟩

/-- Steps 1 to 3 keep the invariant (40_step_and_dispatch.md R120). -/
theorem State.Inv.beforeFetch {s : State} (h : s.Inv) (inp : StepInput) : (s.beforeFetch inp).Inv := by
  have hparts := (kept_beforeFetch s inp).2
  refine h.of_same_report (hparts .mode (by decide)) (hparts .report (by decide)) ?_ ?_ ?_ ?_
  · rw [beforeFetch_mem]; exact h.memory
  · rw [beforeFetch_div]; split <;> omega
  · exact State.EntriesBounded.of_same h.entries (hparts .stack (by decide))
  · rw [beforeFetch_pc]; exact h.counter

/-- An instruction, `PC` past its word, keeps the invariant, whether it completes or faults. -/
theorem exec_inv {i : Instr} {s t : State} (h : s.Inv) (hpc : s.pc.toNat ≤ 0x1000) (hexec : exec i s = .next t) : t.Inv := by
  rcases exec_faultsOrKeeps i s with ⟨k, info, -, hraise⟩ | ⟨hfault, u, hnext, hkept⟩
  · obtain rfl : _ = t := Host.Outcome.next.inj (hraise.symm.trans hexec)
    exact h.raise ..
  · obtain rfl : u = t := Host.Outcome.next.inj (hnext.symm.trans hexec)
    obtain ⟨v, hv, hcounter⟩ := programCounterAfterInstruction i s hfault
    obtain rfl : v = u := Host.Outcome.next.inj (hv.symm.trans hexec)
    have hsame : ∀ p, p ∉ changedByExec → p.Same s v := fun p hp => hkept.2 p (not_mem_instrChanges hp i s.cfg)
    have hdiv : v.div = s.div := hsame .divider (by decide)
    refine h.of_same_report (hsame .mode (by decide)) (hsame .report (by decide)) ?_ ?_ ?_ ?_
    · exact exec_mem_wf h.memory hfault hexec
    · rw [hdiv]; exact h.divider
    · exact exec_entriesBounded h.entries hpc hexec hkept hfault
    · rw [hcounter]; exact instrPc_le h.entries hpc hfault

/-- Every step on any input keeps the invariant, in each of the four ways it can go (stepWith_cases). -/
theorem stepWith_inv {inp : StepInput} {s t : State} (h : s.Inv) (hstep : stepWith inp s = .next t) : t.Inv := by
  rcases stepWith_cases inp s with ⟨-, hout⟩ | ⟨-, -, hout⟩ | ⟨-, hpc, -, hout⟩ | ⟨-, hpc, i, -, hout⟩
  · obtain rfl := Host.Outcome.next.inj (hout.symm.trans hstep)
    exact h.beginStep _
  · obtain rfl := Host.Outcome.next.inj (hout.symm.trans hstep)
    exact (h.beforeFetch inp).raise ..
  · obtain rfl := Host.Outcome.next.inj (hout.symm.trans hstep)
    exact ((h.beforeFetch inp).setPc (Nat.le_trans (fetched_pc_le hpc) (by decide))).raise ..
  · have hnext := fetched_pc_le hpc
    exact exec_inv ((h.beforeFetch inp).setPc (Nat.le_trans hnext (by decide))) hnext (hout.symm.trans hstep)

/-- Settles O11: taking the host's input touches nothing the invariant speaks of, and stepWith_inv does the rest. -/
theorem stepKeepsInvariant : Obligations.StepKeepsInvariant :=
  fun _ _ h hstep => stepWith_inv h.takeInput hstep

end Sys2Proof.Machine
end

section
/-!
SUPPORT. Bytes of memory, each by its own address: after `rst` (20_memory.md R64, R65), and after the stores of `Fx55` and `Fx33`
(45_index_memory.md R203, R204), which alone change memory (20_memory.md R61).
-/

namespace Sys2Proof.Machine

/-- The glyph table is all that an unlisted address reads as other than 0x00 (20_memory.md R64, log entry 8). -/
theorem resetByte_of_le {a : Nat} (ha : 0x050 ≤ a) : resetByte a = 0#8 :=
  List.getD_eq_default _ _ ha

/-- Below the program's base the image is `FONT` and then zeros, whatever the program. -/
theorem Memory.read_image_below {font : List Byte} (hfont : font.length = 80) (program : List Byte) {a : Nat} (ha : a < 0x200) :
    (Memory.image font program).read a = font.getD a 0#8 := by
  rw [Memory.image, Memory.read_writeBytes, if_neg (fun h => absurd h.1 (Nat.not_le.mpr ha)), Memory.read_writeBytes,
    List.take_of_length_le (Nat.le_of_eq hfont), Nat.zero_add, Nat.sub_zero, hfont]
  by_cases hin : a < 80
  · rw [if_pos ⟨Nat.zero_le a, hin⟩]
  · rw [if_neg (fun h => hin h.2), Memory.read_nil, resetByte_of_le (Nat.not_lt.mp hin),
      List.getD_eq_default _ _ (hfont ▸ Nat.not_lt.mp hin)]

/-- From the program's base up the image is the program and then zeros, the program cut at 0xFFF (20_memory.md R65). -/
theorem Memory.read_image_program {font : List Byte} (hfont : font.length = 80) (program : List Byte) {k : Nat} (hk : k < 3584) :
    (Memory.image font program).read (0x200 + k) = program.getD k 0#8 := by
  rw [Memory.image, Memory.read_writeBytes]
  by_cases hin : k < program.length
  · rw [if_pos (by simp [programBase, programCapacity]; omega)]
    simp [programBase, programCapacity, hk]
  · have hpast : ¬ (programBase ≤ 0x200 + k ∧ 0x200 + k < programBase + (program.take programCapacity).length) := by
      simp [programBase]; omega
    have hfree : ¬ (0 ≤ 0x200 + k ∧ 0x200 + k < 0 + (font.take 80).length) := by
      simp [hfont]; omega
    rw [if_neg hpast, Memory.read_writeBytes, if_neg hfree, Memory.read_nil, resetByte_of_le (by omega),
      List.getD_eq_default _ _ (Nat.not_lt.mp hin)]

@[simp] theorem readByte_advanceI (s : State) (x : RegIx) (a : Nat) : (s.advanceI x).readByte a = s.readByte a := rfl

@[simp] theorem bcdDigits_length (b : Byte) : (bcdDigits b).length = 3 := rfl

/-- Memory stands in the frame's exceptions of `Fx33` and `Fx55` alone (20_memory.md R61). -/
theorem memory_mem_instrChanges_iff (i : Instr) (cfg : Straps) :
    Part.memory ∈ instrChanges i cfg ↔ (∃ x, i = .ldB x) ∨ ∃ x, i = .storeRegs x := by
  cases i
  case storeRegs | loadRegs => cases h : cfg.incrementIndexOnStoreLoad <;> simp [instrChanges, h]
  all_goals simp [instrChanges]

/-- An instruction other than `Fx33` and `Fx55` keeps memory, whether it completes or faults (20_memory.md R61). -/
theorem exec_readByte_eq {i : Instr} {s t : State} (hexec : exec i s = .next t)
    (hother : ¬ ((∃ x, i = .ldB x) ∨ ∃ x, i = .storeRegs x)) (a : Nat) : t.readByte a = s.readByte a := by
  rcases exec_faultsOrKeeps i s with ⟨k, info, -, hraise⟩ | ⟨-, u, hnext, -, hparts⟩
  · obtain rfl : _ = t := Host.Outcome.next.inj (hraise.symm.trans hexec)
    rfl
  · obtain rfl : u = t := Host.Outcome.next.inj (hnext.symm.trans hexec)
    exact hparts .memory ((memory_mem_instrChanges_iff i s.cfg).not.mpr hother) a

/-- A checked store changes no byte outside the bytes stored from `I` up, whether it happens or faults (20_memory.md R68). -/
theorem footprint_of_changed_byte {i : Instr} {s t done : State} {n a : Nat} (bs : List Byte)
    (hexec : s.accessing i n done = .next t) (hdone : ∀ b, done.readByte b = (s.storeBytes s.i.toNat bs).readByte b)
    (hdiff : t.readByte a ≠ s.readByte a) : s.i.toNat ≤ a ∧ a < s.i.toNat + bs.length := by
  rcases accessing_cases s i n done with ⟨-, hnext⟩ | ⟨-, hraise⟩
  · obtain rfl : done = t := Host.Outcome.next.inj (hnext.symm.trans hexec)
    by_contra hout
    exact hdiff (by rw [hdone, readByte_storeBytes, if_neg hout])
  · obtain rfl := Host.Outcome.next.inj (hraise.symm.trans hexec)
    exact absurd rfl hdiff

/-- A footprint that ends at 0xFFF or below is not beyond memory (20_memory.md R68). -/
theorem not_beyond_of_le {s : State} {n : Nat} (h : s.i.toNat + n ≤ 0xFFF) : ¬ s.Beyond (n + 1) := by
  rintro ⟨-, hbeyond⟩
  omega

/-- `Fx55` in range (45_index_memory.md R204). -/
theorem exec_storeRegs_of_le {s : State} {x : RegIx} (h : s.i.toNat + x.toNat ≤ 0xFFF) :
    exec (.storeRegs x) s = .next ((s.storeBytes s.i.toNat (s.lowRegs (x.toNat + 1))).advanceI x) :=
  accessing_of_not_beyond (not_beyond_of_le h) _ _

/-- `Fx33` in range (45_index_memory.md R203). -/
theorem exec_ldB_of_le {s : State} {x : RegIx} (h : s.i.toNat + 2 ≤ 0xFFF) :
    exec (.ldB x) s = .next (s.storeBytes s.i.toNat (bcdDigits (s.readV x))) :=
  accessing_of_not_beyond (not_beyond_of_le h) _ _

/-- Every byte after the store of `V[0]` to `V[x]` at `base` (45_index_memory.md R204). -/
theorem readByte_storeBytes_lowRegs_eq (s : State) (x : RegIx) (base a : Nat) :
    (s.storeBytes base (s.lowRegs (x.toNat + 1))).readByte a =
      if base ≤ a ∧ a ≤ base + x.toNat then s.readV (BitVec.ofNat 4 (a - base)) else s.readByte a := by
  rw [readByte_storeBytes, lowRegs_length]
  by_cases hin : base ≤ a ∧ a ≤ base + x.toNat
  · rw [if_pos hin, if_pos (by omega), List.getD_eq_getElem?_getD, lowRegs_get s _ _ (by omega), Option.getD_some]
  · rw [if_neg hin, if_neg (by omega)]

/-- The decimal digits as bytes made of numbers (45_index_memory.md R203). -/
theorem bcdDigits_eq (b : Byte) :
    bcdDigits b = [BitVec.ofNat 8 (b.toNat / 100), BitVec.ofNat 8 (b.toNat / 10 % 10), BitVec.ofNat 8 (b.toNat % 10)] := by
  simpa [Function.comp_def] using congrArg (List.map (BitVec.ofNat 8)) (bcdDigits_toNat b)

/-- Every byte after the store of three bytes at `base`. -/
theorem readByte_storeBytes_three (s : State) (base a : Nat) (p q r : Byte) :
    (s.storeBytes base [p, q, r]).readByte a =
      if a = base then p else if a = base + 1 then q else if a = base + 2 then r else s.readByte a := by
  rw [readByte_storeBytes, show [p, q, r].length = 3 from rfl]
  by_cases hin : base ≤ a ∧ a < base + 3
  · obtain rfl | rfl | rfl : a = base ∨ a = base + 1 ∨ a = base + 2 := by omega
    all_goals simp
  · rw [if_neg hin, if_neg (by omega), if_neg (by omega), if_neg (by omega)]

/-- A fetch reads the bytes at `PC` and `PC + 1`, the byte at `PC` high (20_memory.md R67, R69). -/
theorem fetch_eq_of_readByte {s t : State} {now : Nat → Byte} (hle : s.pc.toNat ≤ 0xFFE) (hpc : t.pc = s.pc)
    (hnow : ∀ a, t.readByte a = now a) : t.fetch = some (wordOfBytes (now s.pc.toNat) (now (s.pc.toNat + 1))) := by
  rcases fetch_cases t with ⟨hgt, -⟩ | ⟨-, hfetch⟩
  · exact absurd (hpc ▸ hle) (Nat.not_le.mpr hgt)
  · rw [hfetch, State.wordAtPc, hnow, hnow, hpc]

end Sys2Proof.Machine
end

section
/-!
Memory: its reset image, its stores, and code that a store has just written (20_memory.md R60 to R74).
-/

namespace Sys2Proof.Machine

/-- Settles O7: the image below the program's base is `FONT` and zeros, and from there up the cut program and zeros. -/
theorem resetImageOfMemory : Obligations.ResetImageOfMemory := by
  intro s straps font program hfont t
  have hread : ∀ a, t.readByte a = (Memory.image font program).read a := fun _ => rfl
  refine ⟨fun a ha => ?_, fun a hlo hhi => ?_, fun a hlo hhi => ?_⟩
  · rw [hread, Memory.read_image_below hfont program (by omega)]
  · rw [hread, Memory.read_image_below hfont program (by omega), List.getD_eq_default _ _ (by omega)]
  · obtain ⟨k, rfl⟩ := Nat.exists_eq_add_of_le hlo
    rw [hread, Memory.read_image_program hfont program (by omega), Nat.add_sub_cancel_left]
    by_cases hin : k < program.length
    · rw [if_pos hin]
    · rw [if_neg hin, List.getD_eq_default _ _ (Nat.not_lt.mp hin)]

/-- Settles O26: `Fx33` and `Fx55` change no byte outside what they store, and by exec_readByte_eq nothing else changes memory. -/
theorem onlyStoresChangeMemory : Obligations.OnlyStoresChangeMemory := by
  intro i s t a hexec hdiff
  by_cases hstore : (∃ x, i = .ldB x) ∨ ∃ x, i = .storeRegs x
  · rcases hstore with ⟨x, rfl⟩ | ⟨x, rfl⟩
    · obtain ⟨hlo, hhi⟩ := footprint_of_changed_byte (bcdDigits (s.readV x)) hexec (fun _ => rfl) hdiff
      rw [bcdDigits_length] at hhi
      exact .inl ⟨x, rfl, hlo, Nat.le_of_lt_succ hhi⟩
    · obtain ⟨hlo, hhi⟩ := footprint_of_changed_byte (s.lowRegs (x.toNat + 1)) hexec (readByte_advanceI _ x) hdiff
      rw [lowRegs_length] at hhi
      exact .inr ⟨x, rfl, hlo, Nat.le_of_lt_succ hhi⟩
  · exact absurd (exec_readByte_eq hexec hstore a) hdiff

/-- Settles O27: readByte_storeBytes says what every address reads, inside the stored bytes and outside them. -/
theorem storedBytesAreReadBack : Obligations.StoredBytesAreReadBack := by
  intro s a bs hfits
  refine ⟨fun k hk => ?_, fun b hout => ?_, fun hwf => Memory.wf_writeBytes bs hwf hfits⟩
  · rw [readByte_storeBytes, if_pos ⟨Nat.le_add_right a k, Nat.add_lt_add_left hk a⟩, Nat.add_sub_cancel_left]
  · rw [readByte_storeBytes, if_neg (by omega)]

/-- Settles O53: neither store moves `PC`, and each leaves at every address the byte the statement names. -/
theorem nextFetchSeesStoredCode : Obligations.NextFetchSeesStoredCode := by
  intro x s hpc
  constructor
  · intro hfits now
    refine ⟨_, exec_storeRegs_of_le hfits, fetch_eq_of_readByte hpc rfl fun a => ?_⟩
    exact readByte_storeBytes_lowRegs_eq s x s.i.toNat a
  · intro hfits v now
    refine ⟨_, exec_ldB_of_le hfits, fetch_eq_of_readByte hpc rfl fun a => ?_⟩
    rw [bcdDigits_eq, readByte_storeBytes_three]

end Sys2Proof.Machine
end

section
/-!
The decoder and the encoder (30_encoding.md R91 to R99) by three facts: the word of an instruction decodes to it, a word listed as
illegal is refused by its family's name, and every word is the one or the other.
-/

namespace Sys2Proof

/-- Settles O2: each branch of the decision tree tests fields the format holds fixed, and reads the operands back from the rest. -/
theorem decodeOfEncodeIsTheInstruction : Obligations.DecodeOfEncodeIsTheInstruction := by
  intro i
  cases i with
  | cls | ret => rfl
  | jp _ | call _ | ldI _ | jpV0 _ | seImm _ _ | sneImm _ _ | ldImm _ _ | addImm _ _ | rnd _ _ | seReg _ _ | sneReg _ _
  | drw _ _ _ => simp [encode, decode]
  | ldReg _ _ | orReg _ _ | andReg _ _ | xorReg _ _ | addReg _ _ | subReg _ _ | shr _ _ | subnReg _ _ | shl _ _ =>
    simp [encode, decode, decode8]
  | skp _ | sknp _ => simp [encode, decode, decodeE]
  | ldVxDT _ | ldVxK _ | ldDTVx _ | ldSTVx _ | addI _ | ldF _ | ldB _ | storeRegs _ | loadRegs _ =>
    simp [encode, decode, decodeF]

/-- Settles O1: each of the nine words runs through the decision tree. -/
theorem wordsOfEachFormatDecode : Obligations.WordsOfEachFormatDecode :=
  ⟨rfl, rfl, rfl, rfl, rfl, rfl, rfl, rfl, rfl⟩

/-- The line of the table of illegal words (30_encoding.md R97) that a name stands for; no 16-bit word is `truncated`. -/
def Illegal.Lists : Illegal → Word → Prop
  | .family0, w => fieldOp w = 0x0#4 ∧ w ≠ 0x00E0#16 ∧ w ≠ 0x00EE#16
  | .family5, w => fieldOp w = 0x5#4 ∧ fieldN w ≠ 0#4
  | .family8, w => fieldOp w = 0x8#4 ∧ fieldN w ∈ [0x8#4, 0x9#4, 0xA#4, 0xB#4, 0xC#4, 0xD#4, 0xF#4]
  | .family9, w => fieldOp w = 0x9#4 ∧ fieldN w ≠ 0#4
  | .familyE, w => fieldOp w = 0xE#4 ∧ fieldNN w ∉ [0x9E#8, 0xA1#8]
  | .familyF, w =>
    fieldOp w = 0xF#4 ∧ fieldNN w ∉ [0x07#8, 0x0A#8, 0x15#8, 0x18#8, 0x1E#8, 0x29#8, 0x33#8, 0x55#8, 0x65#8]
  | .truncated, _ => False

/-- A listed word is refused by its family's name (30_encoding.md R94). -/
theorem decode_of_lists {e : Illegal} {w : Word} (h : e.Lists w) : decode w = .error e := by
  cases e with
  | family0 => obtain ⟨hop, hcls, hret⟩ := h; simp [decode, hop, decode0, hcls, hret]
  | family5 | family9 => obtain ⟨hop, hn⟩ := h; simp [decode, hop, hn]
  | family8 =>
    obtain ⟨hop, hn⟩ := h
    simp only [List.mem_cons, List.not_mem_nil, or_false] at hn
    rcases hn with hn | hn | hn | hn | hn | hn | hn <;> simp [decode, hop, decode8, hn]
  | familyE =>
    obtain ⟨hop, hnn⟩ := h
    simp only [List.mem_cons, List.not_mem_nil, or_false, not_or] at hnn
    simp [decode, hop, decodeE, hnn]
  | familyF =>
    obtain ⟨hop, hnn⟩ := h
    simp only [List.mem_cons, List.not_mem_nil, or_false, not_or] at hnn
    simp [decode, hop, decodeF, hnn]
  | truncated => exact h.elim

/-- A word of format `NNN` from its first nibble on (30_encoding.md R92). -/
theorem wordNNN_of_op {w : Word} {op : Nibble} (hop : fieldOp w = op) : wordNNN op (fieldNNN w) = w :=
  hop ▸ (word_eq_NNN w).symm

theorem wordXNN_of_op {w : Word} {op : Nibble} (hop : fieldOp w = op) : wordXNN op (fieldX w) (fieldNN w) = w :=
  hop ▸ (word_eq_XNN w).symm

theorem wordXNN_of_op_nn {w : Word} {op : Nibble} {nn : Byte} (hop : fieldOp w = op) (hnn : fieldNN w = nn) :
    wordXNN op (fieldX w) nn = w := hnn ▸ wordXNN_of_op hop

theorem wordXYN_of_op {w : Word} {op : Nibble} (hop : fieldOp w = op) :
    wordXYN op (fieldX w) (fieldY w) (fieldN w) = w := hop ▸ (word_eq_XYN w).symm

theorem wordXYN_of_op_n {w : Word} {op n : Nibble} (hop : fieldOp w = op) (hn : fieldN w = n) :
    wordXYN op (fieldX w) (fieldY w) n = w := hn ▸ wordXYN_of_op hop

/-- `w` is the word of an instruction, or stands in a line of the table of illegal words (30_encoding.md R97). -/
def EncodedOrListed (w : Word) : Prop := (∃ i, encode i = w) ∨ ∃ e : Illegal, e.Lists w

/-- The words with `op = 0`. -/
theorem encodedOrListed_op0 {w : Word} (hop : fieldOp w = 0x0#4) : EncodedOrListed w := by
  by_cases hcls : w = 0x00E0#16
  · exact .inl ⟨.cls, hcls.symm⟩
  by_cases hret : w = 0x00EE#16
  · exact .inl ⟨.ret, hret.symm⟩
  exact .inr ⟨.family0, hop, hcls, hret⟩

/-- The words with `op = 8`, by the sub-opcode `n`. -/
theorem encodedOrListed_op8 {w : Word} (hop : fieldOp w = 0x8#4) : EncodedOrListed w := by
  by_cases hn : fieldN w ∈ [0x8#4, 0x9#4, 0xA#4, 0xB#4, 0xC#4, 0xD#4, 0xF#4]
  · exact .inr ⟨.family8, hop, hn⟩
  have hlegal : ∀ n : Nibble, n ∉ [0x8#4, 0x9#4, 0xA#4, 0xB#4, 0xC#4, 0xD#4, 0xF#4] →
      n = 0#4 ∨ n = 1#4 ∨ n = 2#4 ∨ n = 3#4 ∨ n = 4#4 ∨ n = 5#4 ∨ n = 6#4 ∨ n = 7#4 ∨ n = 0xE#4 := by decide
  left
  rcases hlegal _ hn with h | h | h | h | h | h | h | h | h
  · exact ⟨.ldReg _ _, wordXYN_of_op_n hop h⟩
  · exact ⟨.orReg _ _, wordXYN_of_op_n hop h⟩
  · exact ⟨.andReg _ _, wordXYN_of_op_n hop h⟩
  · exact ⟨.xorReg _ _, wordXYN_of_op_n hop h⟩
  · exact ⟨.addReg _ _, wordXYN_of_op_n hop h⟩
  · exact ⟨.subReg _ _, wordXYN_of_op_n hop h⟩
  · exact ⟨.shr _ _, wordXYN_of_op_n hop h⟩
  · exact ⟨.subnReg _ _, wordXYN_of_op_n hop h⟩
  · exact ⟨.shl _ _, wordXYN_of_op_n hop h⟩

/-- The words with `op = 0xE`, by the sub-opcode `nn`. -/
theorem encodedOrListed_opE {w : Word} (hop : fieldOp w = 0xE#4) : EncodedOrListed w := by
  by_cases hnn : fieldNN w ∈ [0x9E#8, 0xA1#8]
  · simp only [List.mem_cons, List.not_mem_nil, or_false] at hnn
    left
    rcases hnn with h | h
    · exact ⟨.skp _, wordXNN_of_op_nn hop h⟩
    · exact ⟨.sknp _, wordXNN_of_op_nn hop h⟩
  · exact .inr ⟨.familyE, hop, hnn⟩

/-- The words with `op = 0xF`, by the sub-opcode `nn`. -/
theorem encodedOrListed_opF {w : Word} (hop : fieldOp w = 0xF#4) : EncodedOrListed w := by
  by_cases hnn : fieldNN w ∈ [0x07#8, 0x0A#8, 0x15#8, 0x18#8, 0x1E#8, 0x29#8, 0x33#8, 0x55#8, 0x65#8]
  · simp only [List.mem_cons, List.not_mem_nil, or_false] at hnn
    left
    rcases hnn with h | h | h | h | h | h | h | h | h
    · exact ⟨.ldVxDT _, wordXNN_of_op_nn hop h⟩
    · exact ⟨.ldVxK _, wordXNN_of_op_nn hop h⟩
    · exact ⟨.ldDTVx _, wordXNN_of_op_nn hop h⟩
    · exact ⟨.ldSTVx _, wordXNN_of_op_nn hop h⟩
    · exact ⟨.addI _, wordXNN_of_op_nn hop h⟩
    · exact ⟨.ldF _, wordXNN_of_op_nn hop h⟩
    · exact ⟨.ldB _, wordXNN_of_op_nn hop h⟩
    · exact ⟨.storeRegs _, wordXNN_of_op_nn hop h⟩
    · exact ⟨.loadRegs _, wordXNN_of_op_nn hop h⟩
  · exact .inr ⟨.familyF, hop, hnn⟩

/-- Every word is the word of an instruction or is listed as illegal (30_encoding.md R97, R99). -/
theorem encodedOrListed (w : Word) : EncodedOrListed w := by
  match hop : fieldOp w with
  | 0x0#4 => exact encodedOrListed_op0 hop
  | 0x1#4 => exact .inl ⟨.jp _, wordNNN_of_op hop⟩
  | 0x2#4 => exact .inl ⟨.call _, wordNNN_of_op hop⟩
  | 0x3#4 => exact .inl ⟨.seImm _ _, wordXNN_of_op hop⟩
  | 0x4#4 => exact .inl ⟨.sneImm _ _, wordXNN_of_op hop⟩
  | 0x5#4 =>
    by_cases hn : fieldN w = 0#4
    · exact .inl ⟨.seReg _ _, wordXYN_of_op_n hop hn⟩
    · exact .inr ⟨.family5, hop, hn⟩
  | 0x6#4 => exact .inl ⟨.ldImm _ _, wordXNN_of_op hop⟩
  | 0x7#4 => exact .inl ⟨.addImm _ _, wordXNN_of_op hop⟩
  | 0x8#4 => exact encodedOrListed_op8 hop
  | 0x9#4 =>
    by_cases hn : fieldN w = 0#4
    · exact .inl ⟨.sneReg _ _, wordXYN_of_op_n hop hn⟩
    · exact .inr ⟨.family9, hop, hn⟩
  | 0xA#4 => exact .inl ⟨.ldI _, wordNNN_of_op hop⟩
  | 0xB#4 => exact .inl ⟨.jpV0 _, wordNNN_of_op hop⟩
  | 0xC#4 => exact .inl ⟨.rnd _ _, wordXNN_of_op hop⟩
  | 0xD#4 => exact .inl ⟨.drw _ _ _, wordXYN_of_op hop⟩
  | 0xE#4 => exact encodedOrListed_opE hop
  | 0xF#4 => exact encodedOrListed_opF hop
  | .ofFin ⟨_ + 16, hlt⟩ => omega

/-- Settles O3: a word that decodes is not listed, so it is the word of an instruction, and of the one it decodes to. -/
theorem encodeOfDecodeIsTheWord : Obligations.EncodeOfDecodeIsTheWord := by
  intro w i hdecode
  rcases encodedOrListed w with ⟨j, rfl⟩ | ⟨e, hlisted⟩
  · rw [decodeOfEncodeIsTheInstruction j] at hdecode
    rw [Except.ok.inj hdecode]
  · rw [decode_of_lists hlisted] at hdecode; cases hdecode

/-- A word is refused by a name exactly when it stands in that name's line. -/
theorem decode_eq_error_iff (w : Word) (e : Illegal) : decode w = .error e ↔ e.Lists w := by
  refine ⟨fun herror => ?_, decode_of_lists⟩
  rcases encodedOrListed w with ⟨i, rfl⟩ | ⟨e', hlisted⟩
  · rw [decodeOfEncodeIsTheInstruction i] at herror; cases herror
  · rw [decode_of_lists hlisted] at herror
    exact Except.error.inj herror ▸ hlisted

/-- Settles O5: decode_eq_error_iff at each name. -/
theorem illegalWordsAreTheListedFamilies : Obligations.IllegalWordsAreTheListedFamilies := fun w =>
  ⟨decode_eq_error_iff w .family0, decode_eq_error_iff w .family5, decode_eq_error_iff w .family8,
    decode_eq_error_iff w .family9, decode_eq_error_iff w .familyE, decode_eq_error_iff w .familyF,
    (decode_eq_error_iff w .truncated).mp⟩

end Sys2Proof
end

section
/-!
The decision tree against the opcode table's masks and matches (30_encoding.md R94, R95): the word of every instruction spells a row
of its mnemonic, no word spells two rows, and no row spells a listed word, since a row fixes every field that the table of illegal
words tests at its `op`.
-/

namespace Sys2Proof.Laws.WordMatchesRow

/-- The family for every instruction. -/
theorem of_instr : ∀ i : Instr, Statement i
  | .cls => cls
  | .ret => ret
  | .jp nnn => jp nnn
  | .call nnn => call nnn
  | .seImm x nn => seImm x nn
  | .sneImm x nn => sneImm x nn
  | .seReg x y => seReg x y
  | .ldImm x nn => ldImm x nn
  | .addImm x nn => addImm x nn
  | .ldReg x y => ldReg x y
  | .orReg x y => orReg x y
  | .andReg x y => andReg x y
  | .xorReg x y => xorReg x y
  | .addReg x y => addReg x y
  | .subReg x y => subReg x y
  | .shr x y => shr x y
  | .subnReg x y => subnReg x y
  | .shl x y => shl x y
  | .sneReg x y => sneReg x y
  | .ldI nnn => ldI nnn
  | .jpV0 nnn => jpV0 nnn
  | .rnd x nn => rnd x nn
  | .drw x y n => drw x y n
  | .skp x => skp x
  | .sknp x => sknp x
  | .ldVxDT x => ldVxDT x
  | .ldVxK x => ldVxK x
  | .ldDTVx x => ldDTVx x
  | .ldSTVx x => ldSTVx x
  | .addI x => addI x
  | .ldF x => ldF x
  | .ldB x => ldB x
  | .storeRegs x => storeRegs x
  | .loadRegs x => loadRegs x

end Sys2Proof.Laws.WordMatchesRow

namespace Sys2Proof

theorem OpcodeRow.spells_iff (row : OpcodeRow) (w : Word) : row.spells w = true ↔ w &&& row.mask = row.value := beq_iff_eq

/-- Any two rows differ in a bit that both fix (30_encoding.md R95). -/
theorem eq_of_rows_agree : ∀ row ∈ opcodeTable, ∀ row' ∈ opcodeTable,
    row.value &&& row'.mask = row'.value &&& row.mask → row = row' := by decide

/-- A word spells at most one row. -/
theorem eq_of_both_spell {w : Word} {row row' : OpcodeRow} (hrow : row ∈ opcodeTable) (hrow' : row' ∈ opcodeTable)
    (h : row.spells w = true) (h' : row'.spells w = true) : row = row' := by
  rw [OpcodeRow.spells_iff] at h h'
  refine eq_of_rows_agree row hrow row' hrow' ?_
  calc row.value &&& row'.mask = w &&& row.mask &&& row'.mask := by rw [h]
    _ = w &&& row'.mask &&& row.mask := by rw [BitVec.and_assoc, BitVec.and_comm row.mask, BitVec.and_assoc]
    _ = row'.value &&& row.mask := by rw [h']

/-- Every row fixes `op`, and the fields that the table of illegal words tests at that `op` (30_encoding.md R97, R98). -/
theorem rows_fix_tested_fields : ∀ row ∈ opcodeTable, fieldOp row.mask = BitVec.allOnes 4 ∧
    (fieldOp row.value = 0x0#4 → row.mask = BitVec.allOnes 16) ∧
    (fieldOp row.value ∈ [0x5#4, 0x8#4, 0x9#4] → fieldN row.mask = BitVec.allOnes 4) ∧
    (fieldOp row.value ∈ [0xE#4, 0xF#4] → fieldNN row.mask = BitVec.allOnes 8) := by decide

/-- The match of a row, with its operands zero, is a legal word. -/
theorem isOk_decode_value : ∀ row ∈ opcodeTable, (decode row.value).isOk = true := by decide

/-- A field that a mask holds whole is the match's field. -/
theorem extract_eq_of_fixed {w m v : Word} {lo len : Nat} (h : w &&& m = v) (hm : m.extractLsb' lo len = BitVec.allOnes len) :
    w.extractLsb' lo len = v.extractLsb' lo len := by
  rw [← h, BitVec.extractLsb'_and, hm, BitVec.and_allOnes]

/-- A word's line in the table of illegal words holds its row's match as well. -/
theorem lists_value_of_spells {w : Word} {row : OpcodeRow} {e : Illegal} (hrow : row ∈ opcodeTable)
    (h : row.spells w = true) (hlisted : e.Lists w) : e.Lists row.value := by
  rw [OpcodeRow.spells_iff] at h
  obtain ⟨hop, h0, hN, hNN⟩ := rows_fix_tested_fields row hrow
  have eop : fieldOp w = fieldOp row.value := extract_eq_of_fixed h hop
  have eN (hmem) : fieldN w = fieldN row.value := extract_eq_of_fixed h (hN hmem)
  have eNN (hmem) : fieldNN w = fieldNN row.value := extract_eq_of_fixed h (hNN hmem)
  cases e with
  | family0 =>
    have heq : w = row.value := by rw [← h, h0 (eop ▸ hlisted.1), BitVec.and_allOnes]
    exact heq ▸ hlisted
  | family5 | family8 | family9 =>
    obtain ⟨hopw, hn⟩ := hlisted
    rw [eop] at hopw
    exact ⟨hopw, eN (by simp [hopw]) ▸ hn⟩
  | familyE | familyF =>
    obtain ⟨hopw, hnn⟩ := hlisted
    rw [eop] at hopw
    exact ⟨hopw, eNN (by simp [hopw]) ▸ hnn⟩
  | truncated => exact hlisted

/-- A listed word spells no row. -/
theorem not_lists_of_spells {w : Word} {row : OpcodeRow} (hrow : row ∈ opcodeTable) (h : row.spells w = true) (e : Illegal) :
    ¬ e.Lists w := by
  intro hlisted
  have hlegal := isOk_decode_value row hrow
  rw [decode_of_lists (lists_value_of_spells hrow h hlisted)] at hlegal
  cases hlegal

/-- Settles O4: a word that spells a row is the word of an instruction, whose own row it then is. -/
theorem wordsDecodeAsTheirTableRow : Obligations.WordsDecodeAsTheirTableRow := by
  refine ⟨fun w row hrow hspells => ?_, fun w i hdecode => ?_, fun w row row' hrow hrow' => eq_of_both_spell hrow hrow'⟩
  · rcases encodedOrListed w with ⟨i, rfl⟩ | ⟨e, hlisted⟩
    · obtain ⟨row', hrow', hspells', hmnemonic⟩ := Laws.WordMatchesRow.of_instr i
      obtain rfl := eq_of_both_spell hrow hrow' hspells hspells'
      exact ⟨i, decodeOfEncodeIsTheInstruction i, hmnemonic.symm⟩
    · exact absurd hlisted (not_lists_of_spells hrow hspells e)
  · obtain rfl := encodeOfDecodeIsTheWord w i hdecode
    exact Laws.WordMatchesRow.of_instr i

end Sys2Proof
end

section
/-!
SUPPORT. A step in two halves (40_step_and_dispatch.md R120): what a no-op step and the steps 1 to 3 of any other leave, and that
what follows them always answers a next state.
-/

namespace Sys2Proof.Machine

/-- A no-op step only starts (40_step_and_dispatch.md R121, R123). -/
theorem stepWith_of_idle {inp : StepInput} {s : State} (h : s.idle inp.keys = true) :
    stepWith inp s = .next (s.beginStep inp.elapsed) := if_pos h

/-- Any other step goes on to its fetch from the state after steps 1 to 3 (40_step_and_dispatch.md R120). -/
theorem stepWith_of_fetches {inp : StepInput} {s : State} (h : s.Fetches inp.keys) :
    stepWith inp s = (s.beforeFetch inp).fetchAndRun :=
  if_neg (Bool.eq_false_iff.mp ((not_idle_iff s inp.keys).mpr h))

/-- Every instruction answers a next state, whether it completes or faults (60_exceptions.md R217). -/
theorem exec_answers (i : Instr) (s : State) : ∃ t, exec i s = .next t := by
  rcases exec_faultsOrKeeps i s with ⟨k, info, -, hraise⟩ | ⟨-, t, hnext, -⟩
  · exact ⟨_, hraise⟩
  · exact ⟨t, hnext⟩

/-- Every step answers a next state, in each of the four ways it can go. -/
theorem stepWith_answers (inp : StepInput) (s : State) : ∃ t, stepWith inp s = .next t := by
  rcases stepWith_cases inp s with ⟨-, hidle⟩ | ⟨-, -, hfetch⟩ | ⟨-, -, -, hdecode⟩ | ⟨-, -, i, -, hrun⟩
  · exact ⟨_, hidle⟩
  · exact ⟨_, hfetch⟩
  · exact ⟨_, hdecode⟩
  · rw [hrun]; exact exec_answers i _

theorem satisfyWait_of_waiting {s : State} (h : s.waitValid = true) :
    s.satisfyWait = (s.writeV s.waitReg (lowestKey s.keys)).clearWait := if_pos h

theorem satisfyWait_of_not_waiting {s : State} (h : s.waitValid = false) : s.satisfyWait = s :=
  if_neg (Bool.eq_false_iff.mp h)

/-- The least asserted code is the one the latch takes (40_step_and_dispatch.md R123). -/
theorem lowestKey_eq {keys : BitVec 16} {k : Nat} (hk : keys.getLsbD k = true) (hlow : ∀ j, j < k → keys.getLsbD j = false) :
    lowestKey keys = BitVec.ofNat 8 k := by
  have hkeys : keys ≠ 0#16 := by rintro rfl; simp at hk
  obtain ⟨l, -, hl, hlowest, heq⟩ := lowestKey_spec hkeys
  obtain hlt | rfl | hgt := Nat.lt_trichotomy k l
  · simp [hlowest k hlt] at hk
  · exact heq
  · simp [hlow l hgt] at hl

/-- After step 2 the latch is clear: it was, or step 2 clears it (40_step_and_dispatch.md R123). -/
theorem satisfyWait_waitValid (s : State) : s.satisfyWait.waitValid = false := by
  cases hwait : s.waitValid
  · rw [satisfyWait_of_not_waiting hwait, hwait]
  · rw [satisfyWait_of_waiting hwait, State.clearWait_waitValid]

@[simp] theorem beforeFetch_waitValid (s : State) (inp : StepInput) : (s.beforeFetch inp).waitValid = false :=
  satisfyWait_waitValid _

@[simp] theorem beforeFetch_waitReg (s : State) (inp : StepInput) : (s.beforeFetch inp).waitReg = s.waitReg := by
  unfold State.beforeFetch State.satisfyWait; split <;> rfl

/-- The latch of step 2 touches neither the timers nor the divider. -/
theorem satisfyWait_timers (s : State) :
    s.satisfyWait.dt = s.dt ∧ s.satisfyWait.st = s.st ∧ s.satisfyWait.div = s.div := by
  unfold State.satisfyWait; split <;> exact ⟨rfl, rfl, rfl⟩

/-- The divider saturates at `TICK_PERIOD`, so a tick is due exactly when the exact sum reaches it (40_step_and_dispatch.md R122). -/
theorem tickDue_iff (s : State) (inp : StepInput) :
    (((s.beginStep inp.elapsed).sample inp).satisfyWait).tickDue = true ↔ Config.tickPeriod ≤ s.div + inp.elapsed := by
  simp [State.tickDue, satisfyWait_timers]

theorem beforeFetch_dt (s : State) (inp : StepInput) :
    (s.beforeFetch inp).dt = if Config.tickPeriod ≤ s.div + inp.elapsed then countDown s.dt else s.dt := by
  simp [State.beforeFetch, tickDue_iff, satisfyWait_timers]

theorem beforeFetch_st (s : State) (inp : StepInput) :
    (s.beforeFetch inp).st = if Config.tickPeriod ≤ s.div + inp.elapsed then countDown s.st else s.st := by
  simp [State.beforeFetch, tickDue_iff, satisfyWait_timers]

/-- Where no key is waited for, steps 1 to 3 leave every register and the latch (40_step_and_dispatch.md R123, R124). -/
theorem kept_beforeFetch_of_not_waiting {s : State} (h : s.waitValid = false) (inp : StepInput) :
    KeptBut [] [.delay, .sound, .divider, .changed, .samples] s (s.beforeFetch inp) := by
  have hstep2 : ((s.beginStep inp.elapsed).sample inp).satisfyWait = _ := satisfyWait_of_not_waiting h
  rw [State.beforeFetch, hstep2]
  exact (((kept_beginStep s inp.elapsed).trans (kept_sample _ inp)).trans (kept_tick _)).mono (by simp) (by simp)

/-- Where a key is waited for, they write the waiting register and clear the latch as well. -/
theorem kept_beforeFetch_of_waiting {s : State} (h : s.waitValid = true) (inp : StepInput) :
    KeptBut [s.waitReg] [.wait, .delay, .sound, .divider, .changed, .samples] s (s.beforeFetch inp) := by
  have hkept := kept_beforeFetch s inp
  rwa [if_pos h] at hkept

/-- Steps 1 and 2 alone, where a key is waited for: the tick comes after them. -/
theorem kept_satisfyWait_of_waiting {s : State} (h : s.waitValid = true) (inp : StepInput) :
    KeptBut [s.waitReg] [.wait, .divider, .changed, .samples] s ((s.beginStep inp.elapsed).sample inp).satisfyWait := by
  have hkept := ((kept_beginStep s inp.elapsed).trans (kept_sample _ inp)).trans (kept_satisfyWait _)
  rw [if_pos (show ((s.beginStep inp.elapsed).sample inp).waitValid = true from h)] at hkept
  exact hkept.mono (by simp) (by simp)

end Sys2Proof.Machine
end

section
/-!
The step transition (40_step_and_dispatch.md R120 to R126): no-op steps, the key latch, the tick, and the instruction it runs.
-/

namespace Sys2Proof.Machine

/-- Settles O12: stepWith_answers, on the host's next input. -/
theorem everyStepAnswersANextState : Obligations.EveryStepAnswersANextState :=
  fun s => stepWith_answers s.nextInput s.takeInput

/-- Settles O13: a halted machine is idle whatever the keys are, so its step only starts. -/
theorem haltedStepChangesOnlyDivider : Obligations.HaltedStepChangesOnlyDivider := by
  intro inp s hhalt
  have hidle : s.idle inp.keys = true := (idle_iff s inp.keys).mpr (.inl hhalt)
  have hhalted : (s.beginStep inp.elapsed).halted = true := decide_eq_true hhalt
  exact ⟨_, stepWith_of_idle hidle, rfl, rfl, kept_beginStep s inp.elapsed, rfl, rfl, hhalted, rfl⟩

/-- Settles O14: with no key the step is idle; with one it fetches, and `p` is the state between the latch and the tick. -/
theorem keyWaitHoldsUntilAKeyIsDown : Obligations.KeyWaitHoldsUntilAKeyIsDown := by
  intro inp s hrun hwait
  constructor
  · intro hkeys
    have hidle : s.idle inp.keys = true := (idle_iff s inp.keys).mpr (.inr ⟨hwait, hkeys⟩)
    exact ⟨_, stepWith_of_idle hidle, rfl, rfl, rfl, kept_beginStep s inp.elapsed⟩
  · intro k _ hk hlow
    have hfetches : s.Fetches inp.keys := ⟨hrun, fun _ hzero => by simp [hzero] at hk⟩
    have hkept := kept_satisfyWait_of_waiting hwait inp
    have hp : ((s.beginStep inp.elapsed).sample inp).satisfyWait = _ := satisfyWait_of_waiting hwait
    refine ⟨((s.beginStep inp.elapsed).sample inp).satisfyWait, ?_, ?_, ?_, ?_, ?_, ?_, hkept, stepWith_of_fetches hfetches⟩
    · rw [hp, readV_clearWait]
      exact (readV_writeV_same ..).trans (lowestKey_eq hk hlow)
    all_goals rw [hp]; rfl

/-- Settles O15: the equations of steps 1 to 3 for the timers and the divider, a tick due or not. -/
theorem tickCountsTimersDown : Obligations.TickCountsTimersDown := by
  intro inp s p
  refine ⟨fun hdue => ?_, fun hshort => ?_, stepWith_of_fetches⟩
  · refine ⟨?_, ?_, ?_⟩
    · rw [beforeFetch_dt, if_pos hdue, countDown_toNat]
    · rw [beforeFetch_st, if_pos hdue, countDown_toNat]
    · rw [beforeFetch_div, if_pos hdue]
  · have hnot := Nat.not_le.mpr hshort
    refine ⟨?_, ?_, ?_⟩
    · rw [beforeFetch_dt, if_neg hnot]
    · rw [beforeFetch_st, if_neg hnot]
    · rw [beforeFetch_div, if_neg hnot]

/-- Settles O16: the frame of steps 1 to 3, where a key is waited for and where none is. -/
theorem stepsOneToThreeKeepAllElse : Obligations.StepsOneToThreeKeepAllElse := by
  intro inp s p
  refine ⟨beforeFetch_keys s inp, beforeFetch_rnd s inp, beforeFetch_changed s inp, beforeFetch_mem s inp, ?_, ?_⟩
  · exact fun hfree => kept_beforeFetch_of_not_waiting hfree inp
  · exact fun hwait => ⟨beforeFetch_waitValid s inp, beforeFetch_waitReg s inp, kept_beforeFetch_of_waiting hwait inp⟩

/-- Settles O17: the host's input is the oldest or a free draw by its definition, and stepWith_runs runs the decoded word. -/
theorem stepRunsTheDecodedInstruction : Obligations.StepRunsTheDecodedInstruction := by
  intro s
  refine ⟨rfl, kept_takeInput s, fun inp rest hinputs => ?_, fun hnone => ?_, fun i hfetches hpc hdecode => ?_⟩
  · simp [State.nextInput, hinputs]
  · simp [State.nextInput, hnone]
  · exact stepWith_runs (s := s.takeInput) hfetches hpc hdecode

end Sys2Proof.Machine
end

section
/-!
The step's result (40_step_and_dispatch.md R127).
-/

namespace Sys2Proof.Machine

/-- `display_changed` stands in the frame's exceptions of `00E0` and `Dxyn` alone (40_step_and_dispatch.md R127). -/
theorem changed_mem_instrChanges_iff (i : Instr) (cfg : Straps) :
    Part.changed ∈ instrChanges i cfg ↔ i = .cls ∨ ∃ x y n, i = .drw x y n := by
  cases i
  case storeRegs | loadRegs => cases h : cfg.incrementIndexOnStoreLoad <;> simp [instrChanges, h]
  all_goals simp [instrChanges]

/-- `00E0` and `Dxyn` report the change where they complete, even if no pixel changed (43_display.md R181, R182). -/
theorem displayChanged_of_draws {i : Instr} {s t : State} (hdraws : i = .cls ∨ ∃ x y n, i = .drw x y n)
    (hfault : instrFault i s = none) (hexec : exec i s = .next t) : t.displayChanged = true := by
  rcases hdraws with rfl | ⟨x, y, n, rfl⟩
  · obtain rfl := Host.Outcome.next.inj hexec
    rfl
  · have hfits : ¬ s.Beyond n.toNat := by simpa [instrFault] using hfault
    obtain rfl := eq_of_accessing hfits hexec
    rfl

/-- An instruction reports a change exactly when it is `00E0` or `Dxyn` and does not fault (40_step_and_dispatch.md R127). -/
theorem exec_displayChanged_iff {i : Instr} {s t : State} (hrun : s.mode = .run) (hquiet : s.displayChanged = false)
    (hexec : exec i s = .next t) :
    t.displayChanged = true ↔ t.mode = .run ∧ (i = .cls ∨ ∃ x y n, i = .drw x y n) := by
  rcases exec_faultsOrKeeps i s with ⟨k, info, -, hraise⟩ | ⟨hfault, u, hnext, -, hparts⟩
  · obtain rfl : _ = t := Host.Outcome.next.inj (hraise.symm.trans hexec)
    simp
  · obtain rfl : u = t := Host.Outcome.next.inj (hnext.symm.trans hexec)
    have hkeeps : u.mode = s.mode := hparts .mode (not_mem_instrChanges (by decide) i s.cfg)
    refine ⟨fun hchanged => ⟨hkeeps.trans hrun, ?_⟩, fun hdraws => displayChanged_of_draws hdraws.2 hfault hexec⟩
    by_contra hother
    have hsame : u.displayChanged = s.displayChanged := hparts .changed ((changed_mem_instrChanges_iff i s.cfg).not.mpr hother)
    simp [hsame, hquiet] at hchanged

/-- Settles O22: of the four ways a step can go only an instruction that runs can report a change (exec_displayChanged_iff). -/
theorem displayChangedReportsDrawing : Obligations.DisplayChangedReportsDrawing := by
  intro inp s t hstep
  refine ⟨?_, bne_iff_ne⟩
  rcases stepWith_cases inp s with ⟨hidle, hout⟩ | ⟨-, hpc, hout⟩ | ⟨-, -, -, hout⟩ | ⟨hfetches, hpc, i, hdecode, hout⟩
  · obtain rfl := Host.Outcome.next.inj (hout.symm.trans hstep)
    simp [← not_idle_iff, hidle]
  · obtain rfl := Host.Outcome.next.inj (hout.symm.trans hstep)
    simp
  · obtain rfl := Host.Outcome.next.inj (hout.symm.trans hstep)
    simp
  · have hrun : ((s.beforeFetch inp).setPc (s.pc + 2#16)).mode = .run := (beforeFetch_mode s inp).trans hfetches.1
    rw [exec_displayChanged_iff hrun (beforeFetch_changed s inp) (hout.symm.trans hstep)]
    simp [hfetches, hpc, hdecode]

end Sys2Proof.Machine
end

section
/-!
The end of a run (40_step_and_dispatch.md R131): what the predicate says, and that no step leaves an ended run.
-/

namespace Sys2Proof.Machine

theorem runEnd_eq_faulted_iff (s : State) : s.runEnd = some .faulted ↔ s.mode = .halt := by
  cases hmode : s.mode
  · simp [State.runEnd, hmode]
  · simp [State.runEnd, hmode]

/-- A jump to itself at `PC` (40_step_and_dispatch.md R131 (c)). -/
theorem atSelfJump_iff (s : State) :
    s.atSelfJump = true ↔ s.mode = .run ∧ s.waitValid = false ∧ s.pc.toNat ≤ 0xFFE ∧
      ∃ nnn, decode s.wordAtPc = .ok (.jp nnn) ∧ nnn.toNat = s.pc.toNat := by
  unfold State.atSelfJump
  rcases fetch_cases s with ⟨hpc, hfetch⟩ | ⟨hpc, hfetch⟩
  · simp [hfetch, Nat.not_le.mpr hpc]
  · simp [hfetch, hpc, jumpsTo_iff, and_assoc]

theorem runEnd_eq_selfJump_iff (s : State) : s.runEnd = some .selfJump ↔ s.atSelfJump = true := by
  cases hmode : s.mode
  · simp [State.runEnd, hmode]
  · simp [State.runEnd, State.atSelfJump, hmode]

/-- Settles O55: the three parts of the predicate, each by its own equivalence. -/
theorem endOfRunIsHaltOrSelfJump : Obligations.EndOfRunIsHaltOrSelfJump := by
  intro s
  refine ⟨runEnd_eq_faulted_iff s, (runEnd_eq_selfJump_iff s).trans (atSelfJump_iff s), fun a => ?_⟩
  simp [State.endedByDecodeErrorAt, Fault.code, and_assoc]

/-- What steps may change once a run has ended so. -/
def changedAfterEnd : RunEnd → List Part
  | .faulted => [.divider, .changed, .host]
  | .selfJump => [.delay, .sound, .divider, .changed, .samples, .host]

theorem changedAfterEnd_subset (e : RunEnd) : changedAfterEnd e ⊆ [.delay, .sound, .divider, .changed, .samples, .host] := by
  cases e <;> simp [changedAfterEnd]

/-- The predicate reads the mode, the latch, `PC` and memory alone. -/
theorem runEnd_congr {s t : State} (hmode : Part.mode.Same s t) (hwait : Part.wait.Same s t) (hpc : Part.pc.Same s t)
    (hmemory : Part.memory.Same s t) : t.runEnd = s.runEnd := by
  simp only [Part.Same] at hmode hwait hpc hmemory
  have hfetch : t.fetch = s.fetch := by simp only [State.fetch, hpc, hmemory]
  rw [State.runEnd, State.runEnd, State.atSelfJump, State.atSelfJump, hmode, hwait.1, hpc, hfetch]

/-- So what may change after the end changes nothing of it. -/
theorem runEnd_of_kept {s t : State} {e : RunEnd} (h : KeptBut [] (changedAfterEnd e) s t) : t.runEnd = s.runEnd := by
  have hsame {p : Part} (hp : p ∉ [Part.delay, .sound, .divider, .changed, .samples, .host]) : p.Same s t :=
    h.2 p fun hmem => hp (changedAfterEnd_subset e hmem)
  exact runEnd_congr (hsame (by decide)) (hsame (by decide)) (hsame (by decide)) (hsame (by decide))

/-- At a jump to itself a step is its steps 1 to 3: the jump takes `PC` back to where the fetch found it
(41_control_flow.md R142). -/
theorem stepWith_of_atSelfJump {s : State} (h : s.atSelfJump = true) (inp : StepInput) :
    stepWith inp s = .next (s.beforeFetch inp) := by
  obtain ⟨hrun, hfree, hpc, nnn, hdecode, htarget⟩ := (atSelfJump_iff s).mp h
  have hback : addrOf nnn = (s.beforeFetch inp).pc :=
    BitVec.eq_of_toNat_eq (by rw [addrOf_toNat, htarget, beforeFetch_pc])
  calc stepWith inp s = exec (.jp nnn) ((s.beforeFetch inp).setPc (s.pc + 2#16)) :=
        stepWith_runs ⟨hrun, fun hwait => by simp [hfree] at hwait⟩ hpc hdecode
    _ = .next (((s.beforeFetch inp).setPc (s.pc + 2#16)).setPc (s.beforeFetch inp).pc) := by rw [← hback]; rfl
    _ = .next (s.beforeFetch inp) := rfl

/-- One step of an ended run (40_step_and_dispatch.md R121, R131). -/
theorem step_of_runEnd {s : State} {e : RunEnd} (h : s.runEnd = some e) :
    ∃ t, step s = .next t ∧ KeptBut [] (changedAfterEnd e) s t := by
  cases e with
  | faulted =>
    have hhalt := (runEnd_eq_faulted_iff s).mp h
    have hidle : s.takeInput.idle s.nextInput.keys = true := (idle_iff _ _).mpr (.inl hhalt)
    refine ⟨_, stepWith_of_idle hidle, ?_⟩
    exact ((kept_takeInput s).trans (kept_beginStep _ _)).mono (by simp) (by simp [changedAfterEnd])
  | selfJump =>
    have hjump : s.takeInput.atSelfJump = true := (runEnd_eq_selfJump_iff s).mp h
    obtain ⟨-, hfree, -⟩ := (atSelfJump_iff s.takeInput).mp hjump
    refine ⟨_, stepWith_of_atSelfJump hjump s.nextInput, ?_⟩
    exact ((kept_takeInput s).trans (kept_beforeFetch_of_not_waiting hfree _)).mono (by simp) (by simp [changedAfterEnd])

theorem run_succ_of_step {M : Host.Core} {s u : M.State} (h : M.step s = .next u) (k : Nat) : M.run (k + 1) s = M.run k u := by
  rw [Host.Core.run, h]

/-- Any number of steps of an ended run: each keeps the end, so the next is again a step of an ended run. -/
theorem run_of_runEnd (k : Nat) {s : State} {e : RunEnd} (h : s.runEnd = some e) :
    ∃ t, Sys2Proof.core.run k s = .next t ∧ KeptBut [] (changedAfterEnd e) s t := by
  induction k generalizing s with
  | zero => exact ⟨s, rfl, (KeptBut.refl s).mono (by simp) (by simp)⟩
  | succ k ih =>
    obtain ⟨u, hstep, hfirst⟩ := step_of_runEnd h
    obtain ⟨t, hrun, hrest⟩ := ih ((runEnd_of_kept hfirst).trans h)
    exact ⟨t, (run_succ_of_step (M := Sys2Proof.core) hstep k).trans hrun, (hfirst.trans hrest).mono (by simp) (by simp)⟩

/-- Settles O56: run_of_runEnd, with the end read off what the steps keep. -/
theorem endedRunStaysEnded : Obligations.EndedRunStaysEnded := by
  intro k s e h
  obtain ⟨t, hrun, hkept⟩ := run_of_runEnd k h
  refine ⟨t, hrun, (runEnd_of_kept hkept).trans h, hkept.mono (by simp) (changedAfterEnd_subset e), ?_⟩
  rintro rfl
  exact hkept

end Sys2Proof.Machine
end

section
/-!
The control transfers `00EE`, `1nnn`, `2nnn`, `3xnn`, `4xnn`, `5xy0`, `9xy0`, `Bnnn` (41_control_flow.md R140 to R148): their words
decode by decodeOfEncodeIsTheInstruction, and each one that completes is a composition of setPc, skipIf, push and dropTop.
-/

namespace Sys2Proof.Machine

/-- A listed fault is entered with its report, and nothing of the instruction's own happens (60_exceptions.md R210, R217). -/
theorem exec_of_instrFault {i : Instr} {s : State} {k : Fault} {info : Word} (h : instrFault i s = some (k, info)) :
    ∃ t, exec i s = .next t ∧ OnlyFaulted s t ∧ Reports t k (s.pc - 2#16) (encode i) info := by
  rcases exec_faultsOrKeeps i s with ⟨k', info', hlisted, hexec⟩ | ⟨hnone, -⟩
  · obtain ⟨rfl, rfl⟩ := Prod.mk.inj (Option.some.inj (h.symm.trans hlisted))
    exact ⟨_, hexec, kept_raise s _ _ _ _, raise_reports s _ _ _ _⟩
  · rw [h] at hnone; cases hnone

/-- A skip instruction whose test decides `p` (41_control_flow.md R140). -/
theorem exec_skips_iff {i : Instr} {s : State} {c : Bool} {p : Prop} [Decidable p] (hexec : exec i s = .next (s.skipIf c))
    (htest : c = true ↔ p) :
    ∃ t, exec i s = .next t ∧ t.pc = (if p then s.pc + 2#16 else s.pc) ∧ KeptBut [] [.pc] s t :=
  ⟨_, hexec, BitVec.eq_of_toNat_eq (skipIf_pc_of_iff s htest), kept_skipIf s c⟩

/-- `Pop()` returns the entry below `SP` (10_state.md R30). -/
theorem stack_get_topOfStack {s : State} (h : 0 < s.sp.val) : s.stack[s.sp.val - 1]? = some s.topOfStack := by
  rw [topOfStack_eq s h]
  exact Vector.getElem?_eq_getElem _

/-- The base of the offset jump, its register taken from the word (41_control_flow.md R148). -/
theorem jumpBase_eq (s : State) (nnn : Addr12) :
    s.jumpBase nnn = if s.cfg.jumpUsesVx then s.readV (fieldX (wordNNN 0xB#4 nnn)) else s.readV 0x0#4 := by
  rw [State.jumpBase, topNibble_eq_fieldX]; rfl

/-- Settles O29: by the room on the stack, exec_call_of_room or the listed overflow. -/
theorem callPushesAndJumps : Obligations.CallPushesAndJumps := by
  intro nnn s
  refine ⟨decodeOfEncodeIsTheInstruction (.call nnn), fun hroom => ?_, fun hfull => exec_of_instrFault (if_pos hfull)⟩
  exact ⟨_, exec_call_of_room hroom nnn, addrOf_toNat nnn, rfl, push_entry s s.pc hroom,
    (kept_push s s.pc hroom).trans (kept_setPc _ _) |>.mono (by simp) (by simp)⟩

/-- Settles O30: by an entry on the stack, exec_ret_of_pos or the listed underflow. -/
theorem returnPopsIntoPc : Obligations.ReturnPopsIntoPc := by
  intro s
  refine ⟨decodeOfEncodeIsTheInstruction .ret, fun hpos => ?_, fun hempty => exec_of_instrFault (if_pos hempty)⟩
  exact ⟨_, exec_ret_of_pos hpos, stack_get_topOfStack hpos, Nat.sub_add_cancel hpos, rfl,
    (kept_dropTop s).trans (kept_setPc _ _) |>.mono (by simp) (by simp)⟩

/-- Settles O31: exec_skips_iff at the two tests against `nn`. -/
theorem skipsOnImmediate : Obligations.SkipsOnImmediate := fun x nn _ =>
  ⟨decodeOfEncodeIsTheInstruction (.seImm x nn), decodeOfEncodeIsTheInstruction (.sneImm x nn),
    exec_skips_iff rfl beq_iff_eq, exec_skips_iff rfl bne_iff_ne⟩

/-- Settles O32: exec_skips_iff at the two tests of registers, and the lines of families 5 and 9 for another last nibble. -/
theorem skipsOnRegisters : Obligations.SkipsOnRegisters := by
  intro x y n s
  have hillegal (hn : n ≠ 0#4) : decode (wordXYN 0x5#4 x y n) = .error .family5 ∧
      decode (wordXYN 0x9#4 x y n) = .error .family9 :=
    ⟨decode_of_lists (e := .family5) (by simp [Illegal.Lists, hn]), decode_of_lists (e := .family9) (by simp [Illegal.Lists, hn])⟩
  exact ⟨decodeOfEncodeIsTheInstruction (.seReg x y), decodeOfEncodeIsTheInstruction (.sneReg x y), hillegal,
    exec_skips_iff rfl beq_iff_eq, exec_skips_iff rfl bne_iff_ne⟩

/-- Settles O33: the sum is exact, so it is at most 0xFFF + 0xFF. -/
theorem offsetJumpAddsItsBase : Obligations.OffsetJumpAddsItsBase := by
  intro nnn s
  have hsum := addrOf_add_byte_toNat nnn (s.jumpBase nnn)
  have hbound : (addrOf nnn + (s.jumpBase nnn).setWidth 16).toNat ≤ 0x10FE := by
    have := nnn.isLt
    have := (s.jumpBase nnn).isLt
    omega
  refine ⟨decodeOfEncodeIsTheInstruction (.jpV0 nnn), _, rfl, ?_, hbound, kept_setPc s _⟩
  rw [← jumpBase_eq]
  exact hsum

/-- Settles O28: the jump is setPc of its address. -/
theorem jumpGoesToItsAddress : Obligations.JumpGoesToItsAddress := fun nnn s =>
  ⟨decodeOfEncodeIsTheInstruction (.jp nnn), _, rfl, addrOf_toNat nnn, kept_setPc s _⟩

end Sys2Proof.Machine
end

section
/-!
The loads, the arithmetic, the logic, the shifts and the random byte `6xnn`, `7xnn`, `8xy0` to `8xy7`, `8xyE`, `Cxnn`
(42_alu.md R160 to R172): none of them faults, and each ends in writeV, writeLogic or writeResultFlag.
-/

namespace Sys2Proof.Machine

/-- The flag wins over a result whose destination is `VF` (42_alu.md R160). -/
@[simp] theorem readV_writeResultFlag_flag (s : State) (x : RegIx) (b f : Byte) : (s.writeResultFlag x b f).readV regF = f := by
  simp [readV_writeResultFlag]

@[simp] theorem readV_writeResultFlag_result (s : State) {x : RegIx} (b f : Byte) (hx : x ≠ regF) :
    (s.writeResultFlag x b f).readV x = b := by
  simp [readV_writeResultFlag, hx]

theorem carryFlag_eq (p q : Byte) : carryFlag p q = if 255 < p.toNat + q.toNat then 1#8 else 0#8 := by
  simp [carryFlag, flagByte]

theorem noBorrowFlag_eq (p q : Byte) : noBorrowFlag p q = if q.toNat ≤ p.toNat then 1#8 else 0#8 := by
  simp [noBorrowFlag, flagByte]

theorem writeLogic_of_reset {s : State} (hstrap : s.cfg.vfResetOnLogic = true) (x : RegIx) (b : Byte) :
    s.writeLogic x b = s.writeResultFlag x b 0#8 := if_pos hstrap

theorem writeLogic_of_no_reset {s : State} (hstrap : s.cfg.vfResetOnLogic = false) (x : RegIx) (b : Byte) :
    s.writeLogic x b = s.writeV x b := if_neg (by simp [hstrap])

/-- A logic instruction with the result `b`, at both values of the strap (42_alu.md R164 to R166). -/
theorem exec_logic_spec {i : Instr} {s : State} {x : RegIx} {b : Byte} (hexec : exec i s = .next (s.writeLogic x b)) :
    ∃ t, exec i s = .next t ∧ KeptBut [x, regF] [] s t ∧
      (s.cfg.vfResetOnLogic = true → t.readV regF = 0#8 ∧ (x ≠ regF → t.readV x = b)) ∧
      (s.cfg.vfResetOnLogic = false → t.readV x = b ∧ (x ≠ regF → t.readV regF = s.readV regF)) := by
  refine ⟨_, hexec, (kept_writeLogic s x b).mono (by split <;> simp) (by simp), fun hstrap => ?_, fun hstrap => ?_⟩
  · rw [writeLogic_of_reset hstrap]
    exact ⟨readV_writeResultFlag_flag s x b _, readV_writeResultFlag_result s b _⟩
  · rw [writeLogic_of_no_reset hstrap]
    exact ⟨readV_writeV_same s x b, fun hx => readV_writeV_other s b hx.symm⟩

/-- An instruction that ends by writing the result `b` and the flag `f` (42_alu.md R160). -/
theorem exec_resultFlag_spec {i : Instr} {s : State} {x : RegIx} {b f : Byte}
    (hexec : exec i s = .next (s.writeResultFlag x b f)) :
    ∃ t, exec i s = .next t ∧ KeptBut [x, regF] [] s t ∧ (x ≠ regF → t.readV x = b) ∧ t.readV regF = f :=
  ⟨_, hexec, kept_writeResultFlag s x b f, readV_writeResultFlag_result s b f, readV_writeResultFlag_flag s x b f⟩

/-- A subtraction of `q` from `p` into `Vx` (42_alu.md R168, R170). -/
theorem exec_subtract_spec {i : Instr} {s : State} {x : RegIx} {p q : Byte}
    (hexec : exec i s = .next (s.writeResultFlag x (diffByte p q) (noBorrowFlag p q))) :
    ∃ t, exec i s = .next t ∧ KeptBut [x, regF] [] s t ∧
      (x ≠ regF → (t.readV x).toNat = (p.toNat + 256 - q.toNat) % 256) ∧
      t.readV regF = if q.toNat ≤ p.toNat then 1#8 else 0#8 := by
  obtain ⟨t, hnext, hkept, hresult, hflag⟩ := exec_resultFlag_spec hexec
  refine ⟨t, hnext, hkept, fun hx => ?_, ?_⟩
  · rw [hresult hx, diffByte_toNat]
  · rw [hflag, noBorrowFlag_eq]

/-- A shift whose result is the number `r` and whose bit shifted out is the number `g` (42_alu.md R169, R171). -/
theorem exec_shift_spec {i : Instr} {s : State} {x : RegIx} {b f : Byte} {r g : Nat}
    (hexec : exec i s = .next (s.writeResultFlag x b f)) (hr : b.toNat = r) (hg : f.toNat = g) :
    ∃ t, exec i s = .next t ∧ KeptBut [x, regF] [] s t ∧ (x ≠ regF → (t.readV x).toNat = r) ∧ (t.readV regF).toNat = g := by
  obtain ⟨t, hnext, hkept, hresult, hflag⟩ := exec_resultFlag_spec hexec
  refine ⟨t, hnext, hkept, fun hx => ?_, ?_⟩
  · rw [hresult hx, hr]
  · rw [hflag, hg]

/-- Settles O34: both are writeV, of `nn` and of the sum. -/
theorem loadsAndAddsImmediate : Obligations.LoadsAndAddsImmediate := by
  intro x nn s
  refine ⟨decodeOfEncodeIsTheInstruction (.ldImm x nn), decodeOfEncodeIsTheInstruction (.addImm x nn),
    ⟨_, rfl, readV_writeV_same s x nn, kept_writeV s x nn⟩, ⟨_, rfl, ?_, kept_writeV s x _⟩⟩
  rw [readV_writeV_same, sumByte_toNat]

/-- Settles O36: exec_logic_spec at each of the three results. -/
theorem logicOnRegisters : Obligations.LogicOnRegisters := by
  intro x y s
  refine ⟨decodeOfEncodeIsTheInstruction (.orReg x y), decodeOfEncodeIsTheInstruction (.andReg x y),
    decodeOfEncodeIsTheInstruction (.xorReg x y), fun i v hmem => ?_⟩
  simp only [List.mem_cons, Prod.mk.injEq, List.not_mem_nil, or_false] at hmem
  rcases hmem with ⟨rfl, rfl⟩ | ⟨rfl, rfl⟩ | ⟨rfl, rfl⟩
  · exact exec_logic_spec rfl
  · exact exec_logic_spec rfl
  · exact exec_logic_spec rfl

/-- Settles O37: exec_resultFlag_spec with the sum and the carry as numbers. -/
theorem addsWithCarryOut : Obligations.AddsWithCarryOut := by
  intro x y s
  obtain ⟨t, hnext, hkept, hresult, hflag⟩ := exec_resultFlag_spec (i := .addReg x y) (s := s) rfl
  refine ⟨decodeOfEncodeIsTheInstruction (.addReg x y), t, hnext, hkept, fun hx => ?_, ?_⟩
  · rw [hresult hx, sumByte_toNat]
  · rw [hflag, carryFlag_eq]

/-- Settles O38: exec_subtract_spec with `Vx` and with `Vy` as the minuend. -/
theorem subtractsWithNotBorrow : Obligations.SubtractsWithNotBorrow := fun x y _ =>
  ⟨decodeOfEncodeIsTheInstruction (.subReg x y), decodeOfEncodeIsTheInstruction (.subnReg x y),
    exec_subtract_spec rfl, exec_subtract_spec rfl⟩

/-- Settles O39: exec_shift_spec at either shift of shiftSource, which is the operand the strap selects. -/
theorem shiftsByOne : Obligations.ShiftsByOne := fun x y s =>
  ⟨decodeOfEncodeIsTheInstruction (.shr x y), decodeOfEncodeIsTheInstruction (.shl x y),
    exec_shift_spec rfl (shiftRight_toNat (s.shiftSource x y)) (lowBitFlag_toNat (s.shiftSource x y)),
    exec_shift_spec rfl (shiftLeft_toNat (s.shiftSource x y)) (highBitFlag_toNat (s.shiftSource x y))⟩

/-- Settles O40: a bit of the AND is 0 where it is 0 in `nn`. -/
theorem randomByteIsMasked : Obligations.RandomByteIsMasked := by
  intro x nn inp s
  have hread := readV_writeV_same s x (s.rnd &&& nn)
  refine ⟨decodeOfEncodeIsTheInstruction (.rnd x nn), beforeFetch_rnd s inp, _, rfl, hread, fun k hk => ?_, kept_writeV s x _⟩
  rw [hread, BitVec.getLsbD_and, hk, Bool.and_false]

/-- Settles O35: the copy is writeV of the source, and no strap is read. -/
theorem copiesRegister : Obligations.CopiesRegister := fun x y s =>
  ⟨decodeOfEncodeIsTheInstruction (.ldReg x y), _, rfl, readV_writeV_same s x (s.readV y), kept_writeV s x _⟩

end Sys2Proof.Machine
end

section
/-!
The display instructions `00E0` and `Dxyn` (43_display.md R180 to R185). A draw is told by two facts: each pixel on the screen
is XORed with the sprite's bit over it, and `VF` is 1 exactly when a set bit lies over a lit pixel.
-/

namespace Sys2Proof.Machine

/-- What a `Dxyn` that completes leaves (43_display.md R182). -/
def State.drawn (s : State) (x y : RegIx) (n : Nibble) : State :=
  (s.setFrame (s.draw x y n).1).writeV regF (flagByte (s.draw x y n).2)

/-- The bit over row `r`, column `c` of the sprite that `Dxyn` draws in `s` (43_display.md R182). -/
def State.spriteOver (s : State) (x y : RegIx) (n : Nibble) (r c : Nat) : Bool :=
  spriteBit (s.startCol x) (s.startRow y) (s.readBytes s.i.toNat n.toNat) r c

theorem exec_drw (x y : RegIx) (n : Nibble) (s : State) :
    exec (.drw x y n) s = s.accessing (.drw x y n) n.toNat (s.drawn x y n) := rfl

theorem kept_drawn (s : State) (x y : RegIx) (n : Nibble) : KeptBut [regF] [.frame, .changed] s (s.drawn x y n) :=
  (kept_setFrame s _).trans (kept_writeV _ regF _)

/-- Each pixel is XORed with the sprite's bit over it. -/
theorem pixel_drawn (s : State) (x y : RegIx) (n : Nibble) {r c : Nat} (hr : r < 32) (hc : c < 64) :
    (s.drawn x y n).fb.pixel r c = (s.fb.pixel r c ^^ s.spriteOver x y n r c) :=
  drawRows_pixel _ _ _ _ _ _ hr hc

theorem flagByte_eq_one_iff (b : Bool) : flagByte b = 1#8 ↔ b = true := by cases b <;> decide

theorem flagByte_eq_zero_iff (b : Bool) : flagByte b = 0#8 ↔ b = false := by cases b <;> decide

/-- A set bit of the sprite lies over a lit pixel (43_display.md R182, R183). -/
def State.Collides (s : State) (x y : RegIx) (n : Nibble) : Prop :=
  ∃ r c, r < 32 ∧ c < 64 ∧ s.spriteOver x y n r c = true ∧ s.fb.pixel r c = true

theorem draw_collision_iff (s : State) (x y : RegIx) (n : Nibble) : (s.draw x y n).2 = true ↔ s.Collides x y n := by
  rw [State.draw, drawRows_collision]
  exact or_iff_right Bool.false_ne_true

theorem readV_drawn_flag (s : State) (x y : RegIx) (n : Nibble) :
    (s.drawn x y n).readV regF = flagByte (s.draw x y n).2 := readV_writeV_same _ _ _

theorem drawn_flag_eq_one_iff (s : State) (x y : RegIx) (n : Nibble) :
    (s.drawn x y n).readV regF = 1#8 ↔ s.Collides x y n := by
  rw [readV_drawn_flag, flagByte_eq_one_iff, draw_collision_iff]

theorem drawn_flag_eq_zero_iff (s : State) (x y : RegIx) (n : Nibble) :
    (s.drawn x y n).readV regF = 0#8 ↔ ¬ s.Collides x y n := by
  rw [readV_drawn_flag, flagByte_eq_zero_iff, ← draw_collision_iff, Bool.not_eq_true]

/-- A `Dxyn` that leaves the machine running has not faulted (60_exceptions.md R217). -/
theorem drawn_of_exec_drw_run {s t : State} {x y : RegIx} {n : Nibble} (hexec : exec (.drw x y n) s = .next t)
    (hrun : t.mode = .run) : ¬ s.Beyond n.toNat ∧ t = s.drawn x y n := by
  have hfits : ¬ s.Beyond n.toNat := fun hbeyond => by
    obtain ⟨u, hfaulted, -, hhalt, -⟩ := exec_of_instrFault (i := .drw x y n) (if_pos hbeyond)
    obtain rfl : u = t := Host.Outcome.next.inj (hfaulted.symm.trans hexec)
    rw [hhalt] at hrun; cases hrun
  exact ⟨hfits, eq_of_accessing hfits hexec⟩

/-- A draw moves neither `I` nor the sprite's bytes: drawn again at the same coordinates, the sprite is the same. -/
theorem spriteOver_drawn {s : State} {x y : RegIx} {n : Nibble} (hx : (s.drawn x y n).readV x = s.readV x)
    (hy : (s.drawn x y n).readV y = s.readV y) : (s.drawn x y n).spriteOver x y n = s.spriteOver x y n := by
  unfold State.spriteOver State.startCol State.startRow
  rw [hx, hy]; rfl

/-- Of the pixels lit after a first draw, those under a set bit are the ones that were off before it (43_display.md R185). -/
theorem toggled_and_lit_iff (old bit : Bool) : bit = true ∧ (old ^^ bit) = true ↔ old = false ∧ (old ^^ bit) = true := by
  cases old with
  | false => simp
  | true => simp

/-- Settles O42: in range by the pixels, the flag and the frame of drawn, beyond memory by the listed fault. -/
theorem drawXorsTheSprite : Obligations.DrawXorsTheSprite := by
  intro x y n s
  refine ⟨decodeOfEncodeIsTheInstruction (.drw x y n), fun hrange => ?_, fun hn hout => ?_⟩
  · have hfits : ¬ s.Beyond n.toNat := by
      rintro ⟨hpos, hout⟩
      rcases hrange with rfl | hin
      · exact absurd hpos (by decide)
      · exact absurd hout (Nat.not_lt.mpr hin)
    refine ⟨s.drawn x y n, (exec_drw x y n s).trans (accessing_of_not_beyond hfits _ _), fun r c => pixel_drawn s x y n,
      (drawn_flag_eq_one_iff s x y n).mpr, fun hdark => (drawn_flag_eq_zero_iff s x y n).mpr ?_, rfl, kept_drawn s x y n⟩
    rintro ⟨r, c, hr, hc, hbit, hlit⟩
    exact absurd hlit (Bool.eq_false_iff.mp (hdark r c hr hc hbit))
  · have hbeyond : s.Beyond n.toNat := ⟨Nat.pos_of_ne_zero fun h => hn (BitVec.eq_of_toNat_eq h), hout⟩
    exact exec_of_instrFault (i := .drw x y n) (if_pos hbeyond)

/-- Settles O43: the second draw XORs the same bits, and a pixel it turns off is one that the first turned on. -/
theorem drawingTwiceRestoresTheDisplay : Obligations.DrawingTwiceRestoresTheDisplay := by
  intro x y n s t _ hexec hrun hx hy
  obtain ⟨hfits, rfl⟩ := drawn_of_exec_drw_run hexec hrun
  have hsame := spriteOver_drawn hx hy
  have hfitsAgain : ¬ (s.drawn x y n).Beyond n.toNat := hfits
  refine ⟨_, (exec_drw x y n _).trans (accessing_of_not_beyond hfitsAgain _ _), Frame.ext_pixel fun r c hr hc => ?_, ?_⟩
  · rw [pixel_drawn _ x y n hr hc, hsame, pixel_drawn s x y n hr hc, Bool.xor_assoc, Bool.xor_self, Bool.xor_false]
  · rw [drawn_flag_eq_one_iff, State.Collides, hsame]
    refine exists₂_congr fun r c => and_congr_right fun hr => and_congr_right fun hc => ?_
    rw [pixel_drawn s x y n hr hc]
    exact toggled_and_lit_iff _ _

/-- Settles O41: the blank display buffer has no lit pixel, and `00E0` is setFrame of it. -/
theorem clearTurnsEveryPixelOff : Obligations.ClearTurnsEveryPixelOff := fun s =>
  ⟨decodeOfEncodeIsTheInstruction .cls, _, rfl, fun r c _ _ => Frame.pixel_blank r c, rfl, kept_setFrame s Frame.blank⟩

end Sys2Proof.Machine
end

section
/-!
The key and timer instructions `Ex9E`, `ExA1`, `Fx07`, `Fx0A`, `Fx15`, `Fx18` (44_keys_timers.md R190 to R195). That no instruction
reads `ST` is told as an equation: replacing `ST` before an instruction is replacing it after. No test reads `ST`, so the replacement
goes into both branches of each.
-/

namespace Sys2Proof.Machine

/-- `ST` replaced in what an instruction answers. -/
def withST (b : Byte) : Out → Out
  | .next t => .next (t.setST b)
  | .fault r => .fault r
  | .refused r => .refused r

/-- The logic results read the straps and the registers alone (42_alu.md R164 to R166). -/
theorem writeLogic_setST (s : State) (b : Byte) (x : RegIx) (result : Byte) :
    (s.setST b).writeLogic x result = (s.writeLogic x result).setST b :=
  (apply_ite (State.setST · b) (s.cfg.vfResetOnLogic = true) (s.writeResultFlag x result 0#8)
    (s.writeV x result)).symm

/-- Registers are loaded from memory, whatever `ST` (45_index_memory.md R205). -/
theorem loadLowRegs_setST (s : State) (b : Byte) (n : Nat) :
    (s.setST b).loadLowRegs n = (s.loadLowRegs n).setST b :=
  List.foldl_hom (State.setST · b) fun _ _ => rfl

/-- The check of an access reads `I` alone (20_memory.md R68). -/
theorem accessing_setST (s : State) (b : Byte) (i : Instr) (n : Nat) (done : State) :
    (s.setST b).accessing i n (done.setST b) = withST b (s.accessing i n done) :=
  (apply_ite (withST b) (s.outOfRange n = true) (s.raiseIn i .memRange (lowestBad s.i)) (.next done)).symm

/-- Every instruction but `Fx18` carries a replaced `ST` through, whether it completes or faults (44_keys_timers.md R195). -/
theorem exec_setST (b : Byte) {i : Instr} (s : State) (hother : ∀ x, i ≠ .ldSTVx x) :
    exec i (s.setST b) = withST b (exec i s) := by
  cases i with
  | ldSTVx x => exact absurd rfl (hother x)
  | ret =>
    exact (apply_ite (withST b) (s.sp.val = 0) (s.raiseIn .ret .stackUnderflow 0#16)
      (.next (s.dropTop.setPc s.topOfStack))).symm
  | call nnn =>
    exact (apply_dite (withST b) (s.sp.val < stackDepth) (fun hroom => .next ((s.push s.pc hroom).setPc (addrOf nnn)))
      (fun _ => s.raiseIn (.call nnn) .stackOverflow 0#16)).symm
  | orReg x y => exact congrArg _ (writeLogic_setST s b x _)
  | andReg x y => exact congrArg _ (writeLogic_setST s b x _)
  | xorReg x y => exact congrArg _ (writeLogic_setST s b x _)
  | drw x y n => exact accessing_setST s b _ _ (s.drawn x y n)
  | ldB x => exact accessing_setST s b _ _ (s.storeBytes s.i.toNat (bcdDigits (s.readV x)))
  | storeRegs x =>
    exact accessing_setST s b _ _ ((s.storeBytes s.i.toNat (s.lowRegs (x.toNat + 1))).advanceI x)
  | loadRegs x =>
    have hloaded : ((s.setST b).loadLowRegs (x.toNat + 1)).advanceI x =
        ((s.loadLowRegs (x.toNat + 1)).advanceI x).setST b :=
      congrArg (State.advanceI · x) (loadLowRegs_setST s b _)
    exact (congrArg _ hloaded).trans (accessing_setST s b _ _ _)
  | _ => rfl

/-- Settles O47: exec_setST, and `Fx18` overwrites the replaced value. -/
theorem noInstructionReadsSoundTimer : Obligations.NoInstructionReadsSoundTimer := by
  intro i s t b hexec
  refine ⟨fun hother => ?_, ?_⟩
  · rw [exec_setST b s hother, hexec, withST]
  · rintro x rfl
    exact hexec

/-- The negated key test (44_keys_timers.md R191). -/
theorem not_keyDown_iff (s : State) (x : RegIx) : (!s.keyDown x) = true ↔ ¬ s.Pressed x := by
  rw [← keyDown_iff, Bool.not_eq_true', Bool.not_eq_true]

/-- Settles O44: exec_skips_iff at the key test and at its negation; the sample is taken before the fetch. -/
theorem skipsOnKey : Obligations.SkipsOnKey := by
  intro x inp s
  obtain ⟨t, hskp, hskpPc, hskpKept⟩ := exec_skips_iff (i := .skp x) rfl (keyDown_iff s x)
  obtain ⟨u, hsknp, hsknpPc, hsknpKept⟩ := exec_skips_iff (i := .sknp x) rfl (not_keyDown_iff s x)
  exact ⟨decodeOfEncodeIsTheInstruction (.skp x), decodeOfEncodeIsTheInstruction (.sknp x), beforeFetch_keys s inp,
    ⟨t, hskp, hskpKept, hskpPc⟩, ⟨u, hsknp, hsknpKept, hsknpPc.trans (ite_not _ _ _)⟩⟩

/-- The tone sounds exactly when `ST` is not 0 (10_state.md R32). -/
theorem toneActive_iff (s : State) : s.toneActive = true ↔ s.st ≠ 0#8 := bne_iff_ne

/-- Settles O46: each is the one update of its timer, which leaves the divider. -/
theorem setsTimers : Obligations.SetsTimers := fun x s =>
  ⟨decodeOfEncodeIsTheInstruction (.ldDTVx x), decodeOfEncodeIsTheInstruction (.ldSTVx x),
    ⟨_, rfl, State.setDT_dt s _, kept_setDT s _⟩,
    ⟨_, rfl, State.setST_st s _, toneActive_iff (s.setST (s.readV x)), kept_setST s _⟩⟩

/-- Settles O45: `Fx07` is writeV of the delay timer, `Fx0A` is setWait, and neither reads the keys. -/
theorem readsDelayAndSetsKeyWait : Obligations.ReadsDelayAndSetsKeyWait := fun x s =>
  ⟨decodeOfEncodeIsTheInstruction (.ldVxDT x), decodeOfEncodeIsTheInstruction (.ldVxK x),
    ⟨_, rfl, readV_writeV_same s x s.dt, kept_writeV s x s.dt⟩,
    ⟨_, rfl, State.setWait_waitValid s x, State.setWait_waitReg s x, kept_setWait s x⟩⟩

end Sys2Proof.Machine
end

section
/-!
The index register and memory instructions `Annn`, `Fx1E`, `Fx29`, `Fx33`, `Fx55`, `Fx65` (45_index_memory.md R200 to R206). The
last three check their whole footprint first: in range each is a composition of storeBytes or loadLowRegs with advanceI, and beyond
memory it is the listed fault.
-/

namespace Sys2Proof.Machine

/-- A footprint with a byte above 0xFFF is beyond memory (20_memory.md R68). -/
theorem beyond_of_lt {s : State} {n : Nat} (h : 0xFFF < s.i.toNat + n) : s.Beyond (n + 1) := ⟨Nat.succ_pos n, h⟩

/-- `Fx65` in range (45_index_memory.md R205). -/
theorem exec_loadRegs_of_le {s : State} {x : RegIx} (h : s.i.toNat + x.toNat ≤ 0xFFF) :
    exec (.loadRegs x) s = .next ((s.loadLowRegs (x.toNat + 1)).advanceI x) :=
  accessing_of_not_beyond (not_beyond_of_le h) _ _

/-- Memory is read through `mem` alone. -/
theorem readByte_congr {s t : State} (h : t.mem = s.mem) (a : Nat) : t.readByte a = s.readByte a :=
  congrArg (Memory.read · a) h

/-- `I` and a byte are added modulo 65536 (45_index_memory.md R201). -/
theorem add_byte_toNat (a : Word) (b : Byte) : (a + b.setWidth 16).toNat = (a.toNat + b.toNat) % 65536 := by
  have := b.isLt
  simp only [BitVec.toNat_add, BitVec.toNat_setWidth]
  omega

/-- The glyph address never wraps: it is at most 5 * 255 (45_index_memory.md R202). -/
theorem glyphAddr_toNat (b : Byte) : (glyphAddr b).toNat = 5 * b.toNat := by
  have := b.isLt
  simp only [glyphAddr, BitVec.toNat_mul, BitVec.toNat_setWidth, BitVec.toNat_ofNat]
  omega

/-- `I` after the optional advance, as a number (45_index_memory.md R204, R205). -/
theorem advanceI_i_toNat (s : State) (x : RegIx) :
    (s.advanceI x).i.toNat =
      if s.cfg.incrementIndexOnStoreLoad then (s.i.toNat + x.toNat + 1) % 65536 else s.i.toNat := by
  rw [State.advanceI_i]
  split
  · simp only [BitVec.toNat_add, BitVec.toNat_ofNat]
    omega
  · rfl

/-- The decimal digits of `b` stored at `base`, hundreds first, as numbers (45_index_memory.md R203). -/
theorem readByte_storeBytes_bcdDigits (s : State) (base : Nat) (b : Byte) {k : Nat} (hk : k < 3) :
    ((s.storeBytes base (bcdDigits b)).readByte (base + k)).toNat =
      [b.toNat / 100, b.toNat / 10 % 10, b.toNat % 10].getD k 0 := by
  rw [readByte_storeBytes, bcdDigits_length, if_pos ⟨Nat.le_add_right base k, Nat.add_lt_add_left hk base⟩,
    Nat.add_sub_cancel_left, ← bcdDigits_toNat]
  exact (List.getD_map (bcdDigits b) 0#8 BitVec.toNat).symm

/-- Every register after `Fx65` in range (45_index_memory.md R205). -/
theorem readV_loadLowRegs_advanceI (s : State) (x r : RegIx) :
    ((s.loadLowRegs (x.toNat + 1)).advanceI x).readV r =
      if r.toNat ≤ x.toNat then s.readByte (s.i.toNat + r.toNat) else s.readV r := by
  rw [readV_advanceI, loadLowRegs_spec s r _ (Nat.succ_le_of_lt x.isLt)]
  exact if_congr Nat.lt_succ_iff rfl rfl

/-- Settles O50: in range storeBytes of the registers and then advanceI, beyond memory the listed fault. -/
theorem storesRegisterBlock : Obligations.StoresRegisterBlock := by
  intro x s
  refine ⟨decodeOfEncodeIsTheInstruction (.storeRegs x), fun hfits => ?_,
    fun hout => exec_of_instrFault (i := .storeRegs x) (if_pos (beyond_of_lt hout))⟩
  refine ⟨_, exec_storeRegs_of_le hfits, fun r hr => readByte_storeBytes_lowRegs s hr, fun a hoff => ?_,
    advanceI_i_toNat _ x, (kept_storeBytes s _ _).trans (kept_advanceI _ x)⟩
  rw [readByte_advanceI, readByte_storeBytes_lowRegs_eq, if_neg (by omega)]

/-- Settles O51: in range loadLowRegs and then advanceI, beyond memory the listed fault. -/
theorem loadsRegisterBlock : Obligations.LoadsRegisterBlock := by
  intro x s
  refine ⟨decodeOfEncodeIsTheInstruction (.loadRegs x), fun hfits => ?_,
    fun hout => exec_of_instrFault (i := .loadRegs x) (if_pos (beyond_of_lt hout))⟩
  obtain ⟨-, hparts⟩ := (kept_loadLowRegs s _ (Nat.succ_le_of_lt x.isLt)).trans (kept_advanceI _ x)
  refine ⟨_, exec_loadRegs_of_le hfits, fun r hr => ?_, fun r hr => ?_, ?_, fun p hp => hparts p (by simpa using hp)⟩
  · rw [readV_loadLowRegs_advanceI, if_pos hr]
  · rw [readV_loadLowRegs_advanceI, if_neg (Nat.not_le.mpr hr)]
  · rw [advanceI_i_toNat, State.loadLowRegs_i, State.loadLowRegs_cfg]

/-- Settles O52: each register is loaded from the byte it was stored in, and the load reads `I` and memory alone. -/
theorem storeThenLoadGivesRegistersBack : Obligations.StoreThenLoadGivesRegistersBack := by
  intro x s hfits
  refine ⟨_, exec_storeRegs_of_le hfits, fun u hmem hi => ?_⟩
  refine ⟨_, exec_loadRegs_of_le (hi ▸ hfits), fun r hr => ?_⟩
  rw [readV_loadLowRegs_advanceI, if_pos hr, hi, readByte_congr hmem]
  exact readByte_storeBytes_lowRegs s hr

/-- Settles O49: in range storeBytes of the three digits, beyond memory the listed fault. -/
theorem storesDecimalDigits : Obligations.StoresDecimalDigits := by
  intro x s
  refine ⟨decodeOfEncodeIsTheInstruction (.ldB x), fun hfits => ?_,
    fun hout => exec_of_instrFault (i := .ldB x) (if_pos (beyond_of_lt hout))⟩
  have hdigit {k : Nat} (hk : k < 3) := readByte_storeBytes_bcdDigits s s.i.toNat (s.readV x) hk
  refine ⟨_, exec_ldB_of_le hfits, hdigit (k := 0) (by decide), hdigit (k := 1) (by decide), hdigit (k := 2) (by decide),
    fun a hoff => ?_, kept_storeBytes s _ _⟩
  rw [readByte_storeBytes, bcdDigits_length, if_neg (by omega)]

/-- Settles O48: each is setI, of the address, of the sum and of the glyph address. -/
theorem loadsIndexRegister : Obligations.LoadsIndexRegister := fun nnn x s =>
  ⟨decodeOfEncodeIsTheInstruction (.ldI nnn), decodeOfEncodeIsTheInstruction (.addI x),
    decodeOfEncodeIsTheInstruction (.ldF x),
    ⟨_, rfl, addrOf_toNat nnn, kept_setI s _⟩,
    ⟨_, rfl, add_byte_toNat s.i (s.readV x), kept_setI s _⟩,
    ⟨_, rfl, glyphAddr_toNat (s.readV x), kept_setI s _⟩⟩

end Sys2Proof.Machine
end

section
/-!
SUPPORT. How a running machine comes to be halted (60_exceptions.md R217): an instruction only by a listed fault, and a step only by
one fault entry on the state after steps 1 to 3, `PC` past the word but for a fetch fault.
-/

namespace Sys2Proof.Machine

/-- An instruction halts a running machine only by its listed fault: a completion keeps the mode (60_exceptions.md R210). -/
theorem exec_raises_of_halts {i : Instr} {s t : State} (hrun : s.mode = .run) (hexec : exec i s = .next t)
    (hhalt : t.mode = .halt) :
    ∃ k info, instrFault i s = some (k, info) ∧ t = s.raise k (s.pc - 2#16) (encode i) info := by
  rcases exec_faultsOrKeeps i s with ⟨k, info, hlisted, hraise⟩ | ⟨-, u, hnext, -, hparts⟩
  · exact ⟨k, info, hlisted, Host.Outcome.next.inj (hexec.symm.trans hraise)⟩
  · obtain rfl : u = t := Host.Outcome.next.inj (hnext.symm.trans hexec)
    have hkeeps : u.mode = s.mode := hparts .mode (not_mem_instrChanges (by decide) i s.cfg)
    simp [hkeeps, hrun] at hhalt

/-- The state a faulting step enters its fault from: steps 1 to 3 done, and `PC` past the word once it is fetched
(60_exceptions.md R213, R217). -/
def State.atFaultEntry (s : State) (inp : StepInput) : State :=
  (s.beforeFetch inp).setPc (if 0xFFE < s.pc.toNat then s.pc else s.pc + 2#16)

theorem atFaultEntry_of_fetchFault {s : State} (hpc : 0xFFE < s.pc.toNat) (inp : StepInput) :
    s.atFaultEntry inp = s.beforeFetch inp := by
  rw [State.atFaultEntry, if_pos hpc, ← beforeFetch_pc s inp]
  rfl

theorem atFaultEntry_of_fetched {s : State} (hpc : s.pc.toNat ≤ 0xFFE) (inp : StepInput) :
    s.atFaultEntry inp = (s.beforeFetch inp).setPc (s.pc + 2#16) := by
  rw [State.atFaultEntry, if_neg (Nat.not_lt.mpr hpc)]

/-- Fault entry after a fetch changes `PC`, the mode, the report and `display_changed` of what steps 1 to 3 leave. -/
theorem kept_raise_setPc (s : State) (a : Word) (k : Fault) (addr word info : Word) :
    KeptBut [] [.pc, .mode, .report, .changed] s ((s.setPc a).raise k addr word info) :=
  ((kept_setPc s a).trans (kept_raise _ k addr word info)).mono (by simp) (by simp)

/-- A step that halts a running machine is one fault entry, whose report has the address `PC` had before the step. -/
theorem stepWith_raises_of_halts {inp : StepInput} {s t : State} (hrun : s.mode = .run) (hstep : stepWith inp s = .next t)
    (hhalt : t.mode = .halt) : ∃ k word info, t = (s.atFaultEntry inp).raise k s.pc word info := by
  rcases stepWith_cases inp s with ⟨-, hout⟩ | ⟨-, hpc, hout⟩ | ⟨-, hpc, -, hout⟩ | ⟨-, hpc, i, -, hout⟩
  · obtain rfl := Host.Outcome.next.inj (hout.symm.trans hstep)
    simp [hrun] at hhalt
  · rw [atFaultEntry_of_fetchFault hpc]
    exact ⟨_, _, _, Host.Outcome.next.inj (hstep.symm.trans hout)⟩
  · rw [atFaultEntry_of_fetched hpc]
    exact ⟨_, _, _, Host.Outcome.next.inj (hstep.symm.trans hout)⟩
  · rw [atFaultEntry_of_fetched hpc]
    have hrunning : ((s.beforeFetch inp).setPc (s.pc + 2#16)).mode = .run := (beforeFetch_mode s inp).trans hrun
    obtain ⟨k, info, -, rfl⟩ := exec_raises_of_halts hrunning (hout.symm.trans hstep) hhalt
    refine ⟨k, encode i, info, ?_⟩
    rw [State.setPc_pc, BitVec.add_sub_cancel]

end Sys2Proof.Machine
end

section
/-!
The faults (60_exceptions.md R210 to R217): when each is raised, its report, and the state its entry leaves.
-/

namespace Sys2Proof.Machine

/-- Settles O18: a step past the last word answers stepWith_fetchFault, and every report has the address `PC` had. -/
theorem fetchFaultIsReported : Obligations.FetchFaultIsReported := by
  refine ⟨fun inp s hfetches hpc => ?_, fun inp s t hrun hstep hhalt => ?_⟩
  · refine ⟨_, stepWith_fetchFault hfetches hpc, ?_, kept_raise _ _ _ _ _, beforeFetch_pc s inp⟩
    rw [← lowestBad_eq]
    exact raise_reports _ _ _ _ _
  · obtain ⟨k, word, info, rfl⟩ := stepWith_raises_of_halts hrun hstep hhalt
    rw [State.raise_faultAddr]

/-- Settles O19: an illegal word fetched answers stepWith_decodeFault. -/
theorem decodeErrorIsReported : Obligations.DecodeErrorIsReported := fun _ _ _ hfetches hpc hdecode =>
  ⟨_, stepWith_decodeFault hfetches hpc hdecode, raise_reports .., rfl, kept_raise_setPc ..⟩

/-- Settles O20: whichever of the ways a step faults, it is one fault entry (stepWith_raises_of_halts). -/
theorem faultEntryIsPrecise : Obligations.FaultEntryIsPrecise := by
  intro inp s t hrun hstep hhalt
  obtain ⟨k, word, info, rfl⟩ := stepWith_raises_of_halts hrun hstep hhalt
  exact ⟨rfl, kept_raise_setPc .., k.code_ne_zero, rfl, rfl⟩

/-- Settles O21: exec_of_instrFault where a fault is listed, and elsewhere the frame of O23, which keeps mode and report. -/
theorem instructionsFaultExactlyWhenListed : Obligations.InstructionsFaultExactlyWhenListed := by
  intro i s
  rcases hlisted : instrFault i s with _ | ⟨k, info⟩
  · obtain ⟨t, hexec, -, hparts⟩ := instructionsKeepAllElse i s hlisted
    have hsame {p : Part} (hp : p ∉ changedByExec) : p.Same s t := hparts p (not_mem_instrChanges hp i s.cfg)
    exact ⟨t, hexec, by simp, fun _ => ⟨hsame (by decide), hsame (by decide)⟩⟩
  · obtain ⟨t, hexec, honly, hreports⟩ := exec_of_instrFault hlisted
    refine ⟨t, hexec, fun k' info' hsame => ?_, by simp⟩
    obtain ⟨rfl, rfl⟩ := Prod.mk.inj (Option.some.inj hsame)
    exact ⟨honly, hreports⟩

end Sys2Proof.Machine
end

section
/-!
The first step after reset with no program (70_reset_and_hazards.md R242): it fetches two zero bytes, and the timers it could count
down are already 0.
-/

namespace Sys2Proof.Machine

/-- A timer at 0 stays there (40_step_and_dispatch.md R124). -/
@[simp] theorem countDown_zero : countDown 0#8 = 0#8 := rfl

/-- With no key waited for and both timers at 0, steps 1 to 3 leave all but the divider, the result and the samples, a tick due or
not. -/
theorem kept_beforeFetch_of_timers_zero {s : State} (hwait : s.waitValid = false) (hdt : s.dt = 0#8) (hst : s.st = 0#8)
    (inp : StepInput) : KeptBut [] [.divider, .changed, .samples] s (s.beforeFetch inp) := by
  obtain ⟨hregs, hparts⟩ := kept_beforeFetch_of_not_waiting hwait inp
  refine ⟨hregs, fun p hp => ?_⟩
  obtain rfl | hdelay := eq_or_ne p .delay
  · simp [Part.Same, beforeFetch_dt, hdt]
  obtain rfl | hsound := eq_or_ne p .sound
  · simp [Part.Same, beforeFetch_st, hst]
  · exact hparts p (by simp_all)

/-- With no program the word at the reset `PC` is zero, whatever the `FONT` (20_memory.md R64). -/
theorem wordAtPc_rst_nil (s : State) (straps : Straps) {font : List Byte} (hfont : font.length = 80) :
    (s.rst straps font []).wordAtPc = 0x0000#16 := by
  obtain ⟨-, -, hprogram⟩ := resetImageOfMemory s straps font [] hfont
  have hpc : (s.rst straps font []).pc.toNat = 0x200 := rfl
  rw [State.wordAtPc, hpc, hprogram 0x200 (by omega) (by omega), hprogram (0x200 + 1) (by omega) (by omega)]
  rfl

/-- Settles O10: the reset state fetches the word 0x0000 (wordAtPc_rst_nil), which is no instruction, and its timers
are 0, so the tick leaves them. -/
theorem firstStepWithNoProgramFaults : Obligations.FirstStepWithNoProgramFaults := by
  intro s straps font inp hfont r
  have hword : r.wordAtPc = 0x0000#16 := wordAtPc_rst_nil s straps hfont
  have hfetches : r.Fetches inp.keys := ⟨rfl, fun hwait => absurd hwait Bool.false_ne_true⟩
  have hpc : r.pc.toNat ≤ 0xFFE := show (0x0200#16 : Word).toNat ≤ 0xFFE by decide
  have hdecode : decode r.wordAtPc = .error .family0 := by rw [hword]; rfl
  obtain ⟨t, hstep, hreports, htpc, hfault⟩ := decodeErrorIsReported inp r .family0 hfetches hpc hdecode
  have hdiv : t.div = (r.beforeFetch inp).div := hfault.2 .divider (by decide)
  have hkept := (kept_beforeFetch_of_timers_zero rfl rfl rfl inp : KeptBut _ _ r _).trans hfault
  rw [hword] at hreports
  refine ⟨t, hstep, hreports, htpc, ?_, hkept.mono (by simp) (by simp)⟩
  rw [hdiv, beforeFetch_div, show r.div = 0 from rfl, Nat.zero_add]

end Sys2Proof.Machine
end
